-- ==== Sys2Proof/Word.lean ====
section
/-! DEFINITION. The words of the STECCY-KBD core and the index types of its banks. Nothing is signed
(00_scope.md section 5) and every field is used at its own width (30_encoding.md R85). -/

namespace Sys2Proof

/-- A command word (R79): `op` in bits 15..12, `arg` in bits 11..0. -/
abbrev Word := BitVec 16

/-- A byte, as SENDB and the mirror take it. -/
abbrev Byte := BitVec 8

/-- A scancode table entry (R76): bit 8 is `ext`, bits 7..0 are `val`. -/
abbrev Code := BitVec 9

/-- A row-state (R74): bit `c` is column `c`, 0 pressed, 1 released. -/
abbrev RowState := BitVec 6

/-- A level of a line or of an output latch: `true` is 1, released; `false` is 0, driven low (R22). -/
abbrev Level := Bool

/-- A row index 0..7 (R53, decision D14). -/
abbrev Row := Fin 8

/-- A column index 0..5 (R53, decision D14); 5 is the extra column (R51). -/
abbrev Col := Fin 6

/-- One value per row. -/
abbrev Bank (α : Type) := Vector α 8

/-- The scancode table as a function of the cell (R32). -/
abbrev Table := Row → Col → Code

/-- The rows in ascending order. -/
def allRows : List Row := [0, 1, 2, 3, 4, 5, 6, 7]

/-- The columns in the dispatcher's order, ascending (R167, decision D9). -/
def allCols : List Col := [0, 1, 2, 3, 4, 5]

end Sys2Proof
end

