-- ==== Sys2Proof/Syntax.lean ====
section
/-! DEFINITION. The twelve operations of the block (30_encoding.md R80), one constructor per row of
spec/opcode_table.json. Row and column operands are typed in range (R53, decision D14). -/

namespace Sys2Proof

/-- The two kinds of key event that are sent: EMITK's operand `k` (0 pressed, 1 released; R83) and what
the indicator is told (`Ind(on)` for pressed, `Ind(off)` for released; R169). -/
inductive Edge where
  | pressed
  | released
deriving DecidableEq, Repr

/-- A transition of one cell (R75). -/
inductive Transition where
  | none
  | pressed
  | released
deriving DecidableEq, Repr

/-- The operations of R80. The first eight are primitive, the last four composite (R84). -/
inductive Instr where
  /-- `INIT`: initialise the scanner (R130). -/
  | init
  /-- `SCANR r`: strobe and sample one row (R131). -/
  | scanr (r : Row)
  /-- `RCHG r`: has the row changed (R132). -/
  | rchg (r : Row)
  /-- `CTRN r, c`: transition of one cell (R133). -/
  | ctrn (r : Row) (c : Col)
  /-- `XLAT r, c`: scancode of a cell (R160). -/
  | xlat (r : Row) (c : Col)
  /-- `SENDB v`: one byte as one PS/2 frame (R101). -/
  | sendb (v : Byte)
  /-- `MIRB v`: one byte to the serial mirror (R161). -/
  | mirb (v : Byte)
  /-- `DLY n`: wait `n` microseconds (R162). -/
  | dly (n : BitVec 12)
  /-- `EMITB v`: one byte on both outputs, charged to the budget (R163). -/
  | emitb (v : Byte)
  /-- `EMITK k, code`: the byte sequence of one key event (R164). -/
  | emitk (k : Edge) (code : Code)
  /-- `DROW r`: one iteration of the dispatcher (R165). -/
  | drow (r : Row)
  /-- `RUN`: the endless main loop (R166). -/
  | run
deriving DecidableEq, Repr

/-- The mnemonic of an operation (R80). -/
def Instr.mnemonic : Instr → String
  | .init => "INIT"
  | .scanr _ => "SCANR"
  | .rchg _ => "RCHG"
  | .ctrn _ _ => "CTRN"
  | .xlat _ _ => "XLAT"
  | .sendb _ => "SENDB"
  | .mirb _ => "MIRB"
  | .dly _ => "DLY"
  | .emitb _ => "EMITB"
  | .emitk _ _ => "EMITK"
  | .drow _ => "DROW"
  | .run => "RUN"

end Sys2Proof
end

