-- ==== Sys2Proof/Config.lean ====
section
/-! DEFINITION. The constants the document fixes (00_scope.md R5), the parameters it leaves open
(R6, 92_eei_decisions.md), and the free values: opaque constants with no body, so that a claim holds
whatever they are. -/

namespace Sys2Proof.Config

/-! ## Constants of R5 -/

/-- `N_SLOTS`: time-slots of one PS/2 frame. -/
abbrev nSlots : Nat := 11
/-- `T_SETUP`: data valid before the clock falls, µs. -/
abbrev tSetup : Nat := 15
/-- `T_LOW`: clock low time, µs. -/
abbrev tLow : Nat := 30
/-- `T_HOLD`: clock high before the next slot, µs. -/
abbrev tHold : Nat := 15
/-- `T_SLOT`: one bit slot, µs. -/
abbrev tSlot : Nat := tSetup + tLow + tHold
/-- `T_FRAME`: one byte, µs. -/
abbrev tFrame : Nat := nSlots * tSlot
/-- `T_BUDGET`: the delay budget of one row, µs. -/
abbrev tBudget : Nat := 4000
/-- `EXT_PREFIX`: the extended-code marker byte. -/
abbrev extPrefix : Byte := 0xE0
/-- `BRK_PREFIX`: the break-code marker byte. -/
abbrev brkPrefix : Byte := 0xF0
/-- `SC_LSHFT`: the code of Caps-Shift at (row 0, column 0). -/
abbrev scLshft : Code := 0x012
/-- The row-state "all released" (R74), the reset value of `prev` (R21). -/
abbrev allReleased : RowState := 0x3F

/-! ## Free values -/

/-- What the `n`-th free sample of the key matrix is (R137: one unconstrained draw per SCANR; log 3). -/
opaque freeSample : Nat → RowState
/-- What `rsp` carries when an operation without a response completes (R82: undefined; log 4). -/
opaque freeResponse : Nat → BitVec 9
/-- By how many microseconds a wait outlasts its argument under `DELAY_MODE = at_least` (R8; log 8). -/
opaque freeDelay : Nat → Nat
/-- A table of which nothing is known (R32; log 9). -/
opaque freeTable : Table
/-- `AUX_ROW` (R6, OPEN; log 9). -/
opaque auxRow : Row
/-- `AUTORUN` (R6, OPEN: `false` is 0, `true` is 1; log 10). -/
opaque autorun : Bool

/-! ## The scancode table

`TABLE` is open but for what R32 and decision D12 say of it. `wellFormedTable` sends every function to a
table that satisfies them and leaves every table that already does as it is, so that `table` below
ranges over exactly the well-formed tables. -/

/-- Decision D12 (c), (d), (e): what no entry but 0 may be. -/
abbrev EntryOk (e : Code) : Prop :=
  e = 0 ∨ e.setWidth 8 ≠ 0 ∧ e.setWidth 8 ≠ extPrefix ∧ e.setWidth 8 ≠ brkPrefix

/-- The table `raw`, each entry that a well-formed table may not hold replaced by one it may (log 9). -/
def wellFormedTable (aux : Row) (raw : Table) : Table := fun r c =>
  if r = 0 ∧ c = 0 then scLshft
  else if c = 5 then
    if r = aux then (if EntryOk (raw r c) ∧ raw r c ≠ 0 then raw r c else 1) else 0
  else if EntryOk (raw r c) then raw r c else 0

/-- `TABLE` of the machine. -/
def table : Table := wellFormedTable auxRow freeTable

/-! ## Parameters of R6 -/

/-- `DELAY_MODE` (R8, decision D1). -/
inductive DelayMode where
  /-- `Wait(n)` takes exactly `n` µs. -/
  | exact
  /-- `Wait(n)` takes any time of at least `n` µs. -/
  | atLeast
deriving DecidableEq, Repr

/-- The parameters of R6. The machine is written for all of them; `params` holds the spec's defaults. -/
structure Params where
  /-- `DELAY_MODE`. -/
  delayMode : DelayMode
  /-- `T_SETTLE`, µs; any value of at least 15 conforms (D6). -/
  tSettle : Nat
  /-- `T_DEDUCT`, µs: 660, or the original code's 330 (D7, R246). -/
  tDeduct : Nat
  /-- `T_MIRROR`, µs (D10). -/
  tMirror : Nat
  /-- `CUR_RESET` (D5). -/
  curReset : RowState
  /-- `row_idx` at reset (D18; 93 U14 has a careful model take it as a parameter). -/
  rowReset : Row
  /-- `AUTORUN` (D13). -/
  autorun : Bool
  /-- `AUX_ROW` (D12). -/
  auxRow : Row
  /-- `TABLE` (D12). -/
  table : Table

/-- The parameters of the machine: the defaults of R6 (log 7, 8, 11, 12) and its OPEN ones free. -/
def params : Params where
  delayMode := .exact
  tSettle := 15
  tDeduct := 660
  tMirror := 0
  curReset := allReleased
  rowReset := 0
  autorun := autorun
  auxRow := auxRow
  table := table

end Sys2Proof.Config
end

