-- ==== Sys2Proof/WellFormed.lean ====
section
/-! DEFINITION. What is checked before the machine runs: command words (30_encoding.md R80, R81), by
the match and mask table of R80; the scancode table (92_eei_decisions.md D12, 60_exceptions.md R206);
the parameters (R6). Row and column operands of `Instr` are in range by their types (R53). -/

namespace Sys2Proof

/-- A row of R80's table: a word `w` is of this row when `w &&& mask = pattern`. -/
structure EncRow where
  mnemonic : String
  pattern : Word
  mask : Word
  /-- Whether `w[5:3]` is a column field, which must be at most 5. -/
  column : Bool
deriving DecidableEq, Repr

/-- The match and mask values of R80, in its order. -/
def encodingTable : List EncRow :=
  [⟨"INIT", 0x0000, 0xFFFF, false⟩, ⟨"SCANR", 0x1000, 0xFFF8, false⟩,
   ⟨"RCHG", 0x2000, 0xFFF8, false⟩, ⟨"CTRN", 0x3000, 0xFFC0, true⟩,
   ⟨"XLAT", 0x4000, 0xFFC0, true⟩, ⟨"SENDB", 0x5000, 0xFF00, false⟩,
   ⟨"MIRB", 0x6000, 0xFF00, false⟩, ⟨"DLY", 0x7000, 0xF000, false⟩,
   ⟨"EMITB", 0x8000, 0xFF00, false⟩, ⟨"EMITK", 0x9000, 0xFC00, false⟩,
   ⟨"DROW", 0xA000, 0xFFF8, false⟩, ⟨"RUN", 0xB000, 0xFFFF, false⟩]

/-- The word is of the row (R80). -/
def EncRow.accepts (e : EncRow) (w : Word) : Bool :=
  w &&& e.mask == e.pattern && (!e.column || (w.extractLsb' 3 3).toNat ≤ 5)

/-- The word is an operation of the block; a word that is not is reserved (R81). -/
def wordWellFormed (w : Word) : Bool := encodingTable.any (·.accepts w)

/-- `TableWF` of decision D12, taken as a premise by claims about a table that is given: (a) Caps-Shift;
(b) the extra column; (c) no entry 0x100, (d) no low byte 0xE0 or 0xF0, (e) low byte 0 only in the
entry 0. -/
abbrev TableWF (aux : Row) (t : Table) : Prop :=
  t 0 0 = Config.scLshft ∧
  ((∀ r, r ≠ aux → t r 5 = 0) ∧ t aux 5 ≠ 0) ∧
  (∀ r c, t r c ≠ 0x100) ∧
  (∀ r c, (t r c).setWidth 8 ≠ Config.extPrefix ∧ (t r c).setWidth 8 ≠ Config.brkPrefix) ∧
  (∀ r c, (t r c).setWidth 8 = 0 → t r c = 0)

/-- The parameters conform: the settle delay is at least 15 µs (D6) and the table is well formed. -/
abbrev Config.Params.WF (p : Config.Params) : Prop :=
  15 ≤ p.tSettle ∧ TableWF p.auxRow p.table

/-- An instruction's operands are in range (R53, R85). The types of `Instr` leave nothing out of range,
as decision D14 asks, so this holds of every term; it is written out because `step` is stated for
well-formed instructions. -/
def Instr.wellFormed : Instr → Bool
  | .init | .sendb _ | .mirb _ | .dly _ | .emitb _ | .emitk _ _ | .run => true
  | .scanr r | .rchg r | .drow r => decide (r.val ≤ 7)
  | .ctrn r c | .xlat r c => decide (r.val ≤ 7) && decide (c.val ≤ 5)

end Sys2Proof
end

