-- ==== Sys2Proof/Decode.lean ====
section
/-! DEFINITION. The decoder of command words, total, refusing each reserved word by the reason R81 gives,
and the encoder, both written from the patterns of 30_encoding.md R80. -/

namespace Sys2Proof

/-- Why a command word is reserved (R81). -/
inductive Reserved where
  /-- `op` is 0xC to 0xF. -/
  | operation
  /-- A must-be-zero bit is 1. -/
  | mustBeZero
  /-- The column field of CTRN or XLAT is 6 or 7. -/
  | column
deriving DecidableEq, Repr

/-- The row field `w[2:0]`. -/
def rowField (w : Word) : Row := ⟨(w.extractLsb' 0 3).toNat, (w.extractLsb' 0 3).isLt⟩

/-- The byte field `w[7:0]`. -/
def byteField (w : Word) : Byte := w.extractLsb' 0 8

/-- EMITK's operand `k = w[9]`. -/
def edgeField (w : Word) : Edge := if w.getLsbD 9 then .released else .pressed

/-- `i`, if the bits of `w` selected by `mask` are zero. -/
def ifZero (w mask : Word) (i : Instr) : Except Reserved Instr :=
  if w &&& mask = 0 then .ok i else .error .mustBeZero

/-- A row and a column operand: `w[11:6]` zero and `c = w[5:3]` at most 5. -/
def ifCell (w : Word) (f : Row → Col → Instr) : Except Reserved Instr :=
  if w &&& 0x0FC0 = 0 then
    if h : (w.extractLsb' 3 3).toNat < 6 then .ok (f (rowField w) ⟨(w.extractLsb' 3 3).toNat, h⟩)
    else .error .column
  else .error .mustBeZero

/-- The operation a command word names (R80), or why it names none (R81). -/
def decode (w : Word) : Except Reserved Instr :=
  match (w.extractLsb' 12 4).toNat with
  | 0x0 => ifZero w 0x0FFF .init
  | 0x1 => ifZero w 0x0FF8 (.scanr (rowField w))
  | 0x2 => ifZero w 0x0FF8 (.rchg (rowField w))
  | 0x3 => ifCell w .ctrn
  | 0x4 => ifCell w .xlat
  | 0x5 => ifZero w 0x0F00 (.sendb (byteField w))
  | 0x6 => ifZero w 0x0F00 (.mirb (byteField w))
  | 0x7 => .ok (.dly (w.extractLsb' 0 12))
  | 0x8 => ifZero w 0x0F00 (.emitb (byteField w))
  | 0x9 => ifZero w 0x0C00 (.emitk (edgeField w) (w.extractLsb' 0 9))
  | 0xA => ifZero w 0x0FF8 (.drow (rowField w))
  | 0xB => ifZero w 0x0FFF .run
  | _ => .error .operation

/-- The instruction of a word numbered as spec/opcode_table.json numbers it: one 16-bit command word,
bit 0 its least significant bit. -/
def decodeTableWord (nbits w : Nat) : Option Instr :=
  match decode (BitVec.ofNat 16 (w % 2 ^ nbits)) with
  | .ok i => some i
  | .error _ => none

/-- EMITK's bit `k` (R83: P is 0, R is 1), in its place `w[9]`. -/
def Edge.bits : Edge → Word
  | .pressed => 0
  | .released => 1 <<< 9

/-- A row operand in its place `w[2:0]`. -/
def rowBits (r : Row) : Word := BitVec.ofNat 16 r.val

/-- A column operand in its place `w[5:3]`. -/
def colBits (c : Col) : Word := BitVec.ofNat 16 c.val <<< 3

/-- The command word of an operation: the pattern of R80 with the fields in their places (as R83's
example `EMITK R, 0x175` is written). -/
def encode : Instr → Word
  | .init => 0x0000
  | .scanr r => 0x1000 ||| rowBits r
  | .rchg r => 0x2000 ||| rowBits r
  | .ctrn r c => 0x3000 ||| colBits c ||| rowBits r
  | .xlat r c => 0x4000 ||| colBits c ||| rowBits r
  | .sendb v => 0x5000 ||| v.setWidth 16
  | .mirb v => 0x6000 ||| v.setWidth 16
  | .dly n => 0x7000 ||| n.setWidth 16
  | .emitb v => 0x8000 ||| v.setWidth 16
  | .emitk k code => 0x9000 ||| k.bits ||| code.setWidth 16
  | .drow r => 0xA000 ||| rowBits r
  | .run => 0xB000

end Sys2Proof
end

