-- ==== Sys2Proof/Machine/State.lean ====
section
/-! DEFINITION. The state of the block (10_state.md), the events it shows (00_scope.md R9), the ways a
step can stop, and the state after reset (R36). -/

namespace Sys2Proof.Machine

open Sys2Proof

/-- The output lines (10_state.md R34): the two PS/2 lines and the eight row strobes. -/
inductive Line where
  | clk
  | data
  | row (r : Row)
deriving DecidableEq, Repr

/-- What a primitive shows outside the block (00_scope.md R9 and section 5). -/
inductive EventKind where
  /-- `SetLine(l, v)`; a write of the level the latch holds already is not observable (R9). -/
  | setLine (l : Line) (v : Level)
  /-- `SampleCols()` with row `r` strobed answered `v`. -/
  | sample (r : Row) (v : RowState)
  /-- `Mirror(b)`. -/
  | mirror (b : Byte)
  /-- `Ind(on)` for `pressed`, `Ind(off)` for `released` (R169). -/
  | ind (e : Edge)
  /-- `Rsp(v)`: the response of RCHG, CTRN or XLAT (R82). -/
  | rsp (v : BitVec 9)
  /-- The `done` pulse of a completed operation (R79). -/
  | done
  /-- `rst` asserted: all ten output latches go to 1 (R230); the times after it count from 0 again. -/
  | reset
deriving DecidableEq, Repr

/-- An event and the microsecond, since the last reset, in which it happens. -/
structure Event where
  time : Nat
  kind : EventKind
deriving DecidableEq, Repr

/-- The primitives of the pseudocode (00_scope.md section 5) and the register writes between them. All
but the waits take 0 µs (R8, decision D22). -/
inductive Prim where
  /-- `SetLine(l, v)`. -/
  | setLine (l : Line) (v : Level)
  /-- `Wait(n)`. -/
  | wait (n : Nat)
  /-- `Wait(budget)`, step 4 of DROW. -/
  | waitBudget
  /-- What is left of a wait that has begun. -/
  | delay (n : Nat)
  /-- SCANR's work at `t = T_SETTLE`: sample, release the strobe, store (R131). -/
  | capture (r : Row)
  /-- INIT's register writes for one row (R130). -/
  | clearRow (r : Row)
  /-- `budget <- T_BUDGET`. -/
  | loadBudget
  /-- `budget <- budget - min(budget, T_DEDUCT)`. -/
  | charge
  /-- `Mirror(b)`. -/
  | mirror (b : Byte)
  /-- `Ind(on)` or `Ind(off)`. -/
  | ind (e : Edge)
  /-- RCHG's response (R132). -/
  | replyChanged (r : Row)
  /-- CTRN's response (R133). -/
  | replyTransition (r : Row) (c : Col)
  /-- XLAT's response (R160). -/
  | replyEntry (r : Row) (c : Col)
  /-- `row_idx <- (row_idx + 1) mod 8`. -/
  | nextRow
deriving DecidableEq, Repr

/-- A primitive, or step 3 of DROW, whose primitives are known only once the row has been sampled. -/
inductive Act where
  | prim (p : Prim)
  | columns (r : Row)
deriving DecidableEq, Repr

/-- An operation in flight (R27): the operation with its operands, when it started (R27's elapsed time
is the time since then), and what it has still to do (log 18). -/
structure Flight where
  op : Instr
  start : Nat
  rest : List Act
deriving DecidableEq, Repr

/-- `mode` (R28): who feeds the sequencer, the command port or the dispatcher's loop. -/
inductive Mode where
  | cmd
  | run
deriving DecidableEq, Repr

/-- A command word the client will present once the port has been ready for `gap` µs (93 U15); it holds
the word until it is accepted (R79; log 2). -/
structure Request where
  gap : Nat
  word : Word
deriving DecidableEq, Repr

/-- The state: first what 10_state.md section 1 gives the block, then the response output of the command
port, then the model's own account of the block's surroundings. -/
structure State where
  /-- `cur[r]`, the current snapshot (R20). -/
  cur : Bank RowState
  /-- `prev[r]`, the previous-reading snapshot (R21). -/
  prev : Bank RowState
  /-- `row[r]`, the strobe latches (R22). -/
  row : Bank Level
  /-- `clk`, the PS/2 clock latch (R23). -/
  clk : Level
  /-- `data`, the PS/2 data latch (R24). -/
  data : Level
  /-- `budget`, what the dispatcher still has to sleep, µs (R25). -/
  budget : BitVec 12
  /-- `row_idx`, the dispatcher's row (R26). -/
  rowIdx : Row
  /-- `inflight`, the operation being executed (R27). -/
  inflight : Option Flight
  /-- `mode` (R28). -/
  mode : Mode
  /-- `strobed[r]`, ghost (R29). -/
  strobed : Bank Bool
  /-- Microseconds since the last reset (R8). -/
  time : Nat
  /-- `rsp[8:0]`, the response output (R79, R82). R79 makes it valid only with `done`; at any other time the
  model lets it hold the value of the last `done` (DESIGN CHOICE, log 24). -/
  rsp : BitVec 9
  /-- What has been seen of the block so far, oldest first (R9, R27; log 13). -/
  trace : List Event
  /-- The words the client has yet to present, in order (R79; log 2). -/
  client : List Request
  /-- The matrix's next answers, in order; when none is listed, a sample is a free value (log 3). -/
  samples : List RowState
  /-- When `rst` is asserted, each in µs since the reset before it (R230; log 6). -/
  resets : List Nat
  /-- The model's own counter of the free values taken so far (log 19). -/
  draws : Nat
deriving DecidableEq, Repr

/-- The faults of the block: none exist (60_exceptions.md R200, decision D21). -/
inductive Fault where
deriving DecidableEq, Repr

/-- The ways the model declines a step. -/
inductive Refusal where
  /-- An operation that has no meaning in `exec` yet. No arm of `exec` raises it. Safe. -/
  | notModelled (mnemonic : String)
  /-- A reserved command word (R81, R211), raised by the step that would accept it, before anything
  changes: a client that issues one is outside what the spec gives a meaning. Safe (log 14). -/
  | reservedWord (w : Word) (why : Reserved)
deriving DecidableEq, Repr

/-- The state after reset (R36) of a machine with the parameters `p`. With `AUTORUN = 1` INIT has left no
event here, not its `done` either (DESIGN CHOICE, log 26). -/
def State.resetWith (p : Config.Params) : State where
  cur := Vector.replicate 8 p.curReset
  prev := Vector.replicate 8 Config.allReleased
  row := Vector.replicate 8 true
  clk := true
  data := true
  budget := 0
  rowIdx := p.rowReset
  inflight := none
  mode := if p.autorun then .run else .cmd
  strobed := Vector.replicate 8 false
  time := 0
  rsp := 0
  trace := []
  client := []
  samples := []
  resets := []
  draws := 0

/-- The state after reset (R36). -/
def State.reset : State := State.resetWith Config.params

end Sys2Proof.Machine
end

