-- ==== Sys2Proof/Machine/Flags.lean ====
section
/-! DEFINITION. What the block derives and does not store (10_state.md R30): the parity of a byte
(30_encoding.md R71), whether a row has changed (41_matrix_scanner.md R132), a cell's transition
(R133), and the edge sets of R134. -/

namespace Sys2Proof.Machine

open Sys2Proof

/-- `popcount(v)` of a byte. -/
def popcount (v : Byte) : Nat :=
  (List.range 8).foldl (fun n i => n + (v.getLsbD i).toNat) 0

/-- `par(v) = 1 - (popcount(v) mod 2)`, odd parity (R71). -/
def par (v : Byte) : Level := popcount v % 2 == 0

/-- RCHG's outcome (R132): the six-bit patterns differ. -/
def changed (prev cur : RowState) : Bool := cur != prev

/-- CTRN's outcome for one bit (R75): 1 to 0 is pressed, 0 to 1 is released. -/
def edge (bPrev bCur : Bool) : Transition :=
  if bPrev && !bCur then .pressed
  else if !bPrev && bCur then .released
  else .none

/-- CTRN's outcome for column `c` (R133). -/
def transition (prev cur : RowState) (c : Col) : Transition :=
  edge (prev.getLsbD c.val) (cur.getLsbD c.val)

/-- The response code of a transition (R75, decision D4). -/
def transitionCode : Transition → BitVec 2
  | .none => 0
  | .pressed => 1
  | .released => 2

/-- The cells of a row that were pressed, as a bit vector (R134). -/
def pressedSet (prev cur : RowState) : RowState := prev &&& ~~~cur

/-- The cells of a row that were released, as a bit vector (R134). -/
def releasedSet (prev cur : RowState) : RowState := ~~~prev &&& cur

end Sys2Proof.Machine
end

