-- ==== Sys2Proof/Machine/Operands.lean ====
section
/-! DEFINITION. How operands are read: the frame of a byte (30_encoding.md R70, R72, 40_ps2_transmitter.md
R100), the fields of a table entry (R76), and the bytes of a key event (R78). -/

namespace Sys2Proof.Machine

open Sys2Proof

/-- `FrameBits(v)` (R100): start 0, the data bits least significant first (R50), odd parity, stop 1. -/
def frameBits (v : Byte) : List Level :=
  [false, v.getLsbD 0, v.getLsbD 1, v.getLsbD 2, v.getLsbD 3, v.getLsbD 4, v.getLsbD 5,
   v.getLsbD 6, v.getLsbD 7, par v, true]

/-- `frame11(v)` (R72): the frame as a number, slot `k` at bit `k`. -/
def frame11 (v : Byte) : BitVec 11 := 1#1 ++ BitVec.ofBool (par v) ++ v ++ 0#1

/-- The extended marker of an entry (R76), bit 8. -/
def codeExt (code : Code) : Bool := code.getLsbD 8

/-- The byte of an entry that is sent last (R76), bits 7..0. -/
def codeVal (code : Code) : Byte := code.setWidth 8

/-- The bytes of a key event, in order (R78, R164): none for the entry 0, else
`[0xE0 if ext] [0xF0 if released] val`. -/
def keyBytes (k : Edge) (code : Code) : List Byte :=
  if code = 0 then []
  else (if codeExt code then [Config.extPrefix] else []) ++
    (if k = .released then [Config.brkPrefix] else []) ++ [codeVal code]

/-- The edge a transition is, if it is one: what DROW does something for (R165). -/
def transitionEdge : Transition → Option Edge
  | .none => Option.none
  | .pressed => some .pressed
  | .released => some .released

end Sys2Proof.Machine
end

