-- ==== Sys2Proof/Machine/Ops.lean ====
section
/-! DEFINITION. The named operations over registers, latches, time and the block's boundary: the
primitives of 00_scope.md section 5 and the register writes of 41_matrix_scanner.md and
42_translator_dispatcher.md. The block has no exception to take (60_exceptions.md R200, R203); what
ends an operation from outside is reset, `applyReset` below (70_reset_and_hazards.md R230). -/

namespace Sys2Proof.Machine

open Sys2Proof

/-- A bank with the value of row `r` replaced. -/
def put {α : Type} (b : Bank α) (r : Row) (x : α) : Bank α := b.set r.val x r.isLt

/-- An event of the present microsecond. -/
def State.emit (k : EventKind) (s : State) : State :=
  { s with trace := s.trace ++ [⟨s.time, k⟩] }

/-- `SetLine(l, v)`: the latch takes the level at once (R60, R102). -/
def State.setLine (l : Line) (v : Level) (s : State) : State :=
  let s := s.emit (.setLine l v)
  match l with
  | .clk => { s with clk := v }
  | .data => { s with data := v }
  | .row r => { s with row := put s.row r v }

/-- Let `n` µs pass; nothing else changes (R8). -/
def State.pass (n : Nat) (s : State) : State := { s with time := s.time + n }

/-- How long `Wait(n)` takes (R8): exactly `n`, or under `at_least` some time that is not less, a free
value each time. -/
def State.waitTime (p : Config.Params) (n : Nat) (s : State) : Nat × State :=
  match p.delayMode with
  | .exact => (n, s)
  | .atLeast => (n + Config.freeDelay s.draws, { s with draws := s.draws + 1 })

/-- `Wait(n)`. -/
def State.wait (p : Config.Params) (n : Nat) (s : State) : State :=
  (s.waitTime p n).2.pass (s.waitTime p n).1

/-- `SampleCols()` with row `r` strobed (R137): the matrix's next answer; where none is listed, a free
value. -/
def State.sampleCols (r : Row) (s : State) : RowState × State :=
  match s.samples with
  | v :: rest => (v, ({ s with samples := rest } : State).emit (.sample r v))
  | [] =>
    let v := Config.freeSample s.draws
    (v, ({ s with draws := s.draws + 1 } : State).emit (.sample r v))

/-- SCANR's register writes (R131, R54): the prior current value becomes the previous one. -/
def State.shiftRow (r : Row) (v : RowState) (s : State) : State :=
  { s with
    prev := put s.prev r s.cur[r]
    cur := put s.cur r v
    strobed := put s.strobed r true }

/-- SCANR at `t = T_SETTLE`: the sample, then the release of the strobe, then the store (R131, D16). -/
def State.capture (r : Row) (s : State) : State :=
  ((s.sampleCols r).2.setLine (.row r) true).shiftRow r (s.sampleCols r).1

/-- INIT's register writes for row `r` (R130). -/
def State.clearRow (p : Config.Params) (r : Row) (s : State) : State :=
  { s with
    prev := put s.prev r Config.allReleased
    cur := put s.cur r p.curReset
    strobed := put s.strobed r false }

/-- `budget <- T_BUDGET` (R165). -/
def State.loadBudget (s : State) : State :=
  { s with budget := BitVec.ofNat 12 Config.tBudget }

/-- `budget <- budget - min(budget, T_DEDUCT)` (R163, R171): a floor at zero, never a wrap. -/
def State.charge (p : Config.Params) (s : State) : State :=
  { s with budget := BitVec.ofNat 12 (s.budget.toNat - min s.budget.toNat p.tDeduct) }

/-- `Rsp(v)` (R82). -/
def State.respond (v : BitVec 9) (s : State) : State :=
  ({ s with rsp := v } : State).emit (.rsp v)

/-- Whether row `r` has changed (R132). -/
def State.rowChanged (s : State) (r : Row) : Bool := changed s.prev[r] s.cur[r]

/-- The transition of cell (`r`, `c`) (R133). -/
def State.cellTransition (s : State) (r : Row) (c : Col) : Transition :=
  transition s.prev[r] s.cur[r] c

/-- `row_idx <- (row_idx + 1) mod 8` (R26): `Row` wraps from 7 to 0. -/
def State.advanceRow (s : State) : State := { s with rowIdx := s.rowIdx + 1 }

/-- An operation that has a response completes: `done` pulses while `rsp` is valid (R79, R82). -/
def State.finishReply (s : State) : State := s.emit .done

/-- An operation that has no response completes: `done` pulses and `rsp` is undefined (R82), a free
value (log 4). -/
def State.finishSilent (s : State) : State :=
  ({ s with rsp := Config.freeResponse s.draws, draws := s.draws + 1 } : State).emit .done

/-- `mode <- RUN` and RUN in flight (R166, R27). -/
def State.startRun (s : State) : State :=
  { s with mode := .run, inflight := some ⟨.run, s.time, []⟩ }

/-- `rst` is asserted at microsecond `now`, and released (R230): every piece of the block's state takes
its reset value. What is not the block's goes on: the client, the matrix, the resets to come, and the
record of events, in which the reset stands (log 6, log 13). -/
def State.applyReset (p : Config.Params) (now : Nat) (s : State) : State :=
  { State.resetWith p with
    trace := s.trace ++ [⟨now, .reset⟩]
    client := s.client
    samples := s.samples
    resets := s.resets.tail
    draws := s.draws }

/-- `cmd_ready` (R79). -/
def State.cmdReady (s : State) : Bool := s.inflight.isNone && s.mode == .cmd

/-- Busy (R31): an operation is in flight, or the loop runs. -/
def State.busy (s : State) : Bool := s.inflight.isSome || s.mode == .run

/-- The time an operation in flight has taken so far, R27's `t`. -/
def State.elapsed (s : State) : Option Nat := s.inflight.map (fun f => s.time - f.start)

/-- The latch of an output line. -/
def State.latch (s : State) : Line → Level
  | .clk => s.clk
  | .data => s.data
  | .row r => s.row[r]

/-- The level of an open-drain wire (R60): low when any driver drives low. -/
def wire (latch : Level) (others : List Level) : Level := latch && others.all (· == true)

end Sys2Proof.Machine
end

