-- ==== Sys2Proof/Machine/Scripts.lean ====
section
/-! DEFINITION. The pseudocode of every operation as a list of primitives, in the order the spec writes
them (20_memory.md R57). A composite is the sequence of its parts (30_encoding.md R84). -/

namespace Sys2Proof.Machine

open Sys2Proof

/-- INIT (41_matrix_scanner.md R130). -/
def scriptInit : List Prim :=
  allRows.flatMap (fun r => [.setLine (.row r) true, .clearRow r])

/-- SCANR (R131). -/
def scriptScanr (p : Config.Params) (r : Row) : List Prim :=
  [.setLine (.row r) false, .wait p.tSettle, .capture r]

/-- One slot of a frame (30_encoding.md R73). -/
def scriptSlot (b : Level) : List Prim :=
  [.setLine .data b, .wait Config.tSetup, .setLine .clk false, .wait Config.tLow,
   .setLine .clk true, .wait Config.tHold]

/-- SENDB (40_ps2_transmitter.md R101). -/
def scriptSendb (v : Byte) : List Prim := (frameBits v).flatMap scriptSlot

/-- MIRB (42_translator_dispatcher.md R161). -/
def scriptMirb (p : Config.Params) (v : Byte) : List Prim := [.mirror v, .wait p.tMirror]

/-- DLY (R162). -/
def scriptDly (n : BitVec 12) : List Prim := [.wait n.toNat]

/-- EMITB (R163): the frame, the mirror byte, the deduction. -/
def scriptEmitb (p : Config.Params) (v : Byte) : List Prim :=
  scriptSendb v ++ scriptMirb p v ++ [.charge]

/-- EMITK (R164). -/
def scriptEmitk (p : Config.Params) (k : Edge) (code : Code) : List Prim :=
  (keyBytes k code).flatMap (scriptEmitb p)

/-- DROW's work for one column (R165 step 3): the indicator, then the lookup and the bytes (R169). -/
def scriptColumn (p : Config.Params) (r : Row) (c : Col) (t : Transition) : List Prim :=
  match transitionEdge t with
  | none => []
  | some k => .ind k :: scriptEmitk p k (p.table r c)

/-- DROW's step 3 for a row whose snapshots are `prev` and `cur` (R165). -/
def scriptColumns (p : Config.Params) (r : Row) (prev cur : RowState) : List Prim :=
  if changed prev cur then allCols.flatMap (fun c => scriptColumn p r c (transition prev cur c))
  else []

/-- DROW (R165, steps 1 to 4). -/
def scriptDrow (p : Config.Params) (r : Row) : List Act :=
  .prim .loadBudget :: ((scriptScanr p r).map .prim ++ [.columns r, .prim .waitBudget])

/-- One turn of RUN's loop (R166). -/
def scriptTurn (p : Config.Params) (r : Row) : List Act := scriptDrow p r ++ [.prim .nextRow]

end Sys2Proof.Machine
end

