-- ==== Sys2Proof/Machine/Sequencer.lean ====
section
/-! DEFINITION. The sequencer: it runs the primitives of an operation one after another (20_memory.md
R57), and one step of the machine is one operation (10_state.md R27: "an atomic step that appends timed
events to a trace"), one turn of RUN's loop, one idle microsecond, or a reset. -/

namespace Sys2Proof.Machine

open Sys2Proof

/-- What one primitive does. -/
def Prim.run (p : Config.Params) : Prim → State → State
  | .setLine l v, s => s.setLine l v
  | .wait n, s => s.wait p n
  | .waitBudget, s => s.wait p s.budget.toNat
  | .delay n, s => s.pass n
  | .capture r, s => s.capture r
  | .clearRow r, s => s.clearRow p r
  | .loadBudget, s => s.loadBudget
  | .charge, s => s.charge p
  | .mirror b, s => s.emit (.mirror b)
  | .ind e, s => s.emit (.ind e)
  | .replyChanged r, s => s.respond ((BitVec.ofBool (s.rowChanged r)).setWidth 9)
  | .replyTransition r c, s => s.respond ((transitionCode (s.cellTransition r c)).setWidth 9)
  | .replyEntry r c, s => s.respond (p.table r c)
  | .nextRow, s => s.advanceRow

/-- Primitives one after another. -/
def runPrims (p : Config.Params) : List Prim → State → State
  | [], s => s
  | a :: as, s => runPrims p as (a.run p s)

/-- DROW's step 3 in the present state: the row has been sampled, so its primitives are known. -/
def State.columnPrims (p : Config.Params) (r : Row) (s : State) : List Prim :=
  scriptColumns p r s.prev[r] s.cur[r]

/-- What one act does. -/
def Act.run (p : Config.Params) : Act → State → State
  | .prim a, s => a.run p s
  | .columns r, s => runPrims p (s.columnPrims p r) s

/-- Acts one after another. -/
def runActs (p : Config.Params) : List Act → State → State
  | [], s => s
  | a :: as, s => runActs p as (a.run p s)

/-- An operation without a response: its acts, then its completion. -/
def State.operate (p : Config.Params) (acts : List Act) (s : State) : State :=
  (runActs p acts s).finishSilent

/-- An operation with a response. -/
def State.inquire (p : Config.Params) (acts : List Act) (s : State) : State :=
  (runActs p acts s).finishReply

/-- The acts of an operation from its acceptance to its completion; RUN's loop is `turnActs`. -/
def script (p : Config.Params) : Instr → List Act
  | .init => scriptInit.map .prim
  | .scanr r => (scriptScanr p r).map .prim
  | .rchg r => [.prim (.replyChanged r)]
  | .ctrn r c => [.prim (.replyTransition r c)]
  | .xlat r c => [.prim (.replyEntry r c)]
  | .sendb v => (scriptSendb v).map .prim
  | .mirb v => (scriptMirb p v).map .prim
  | .dly n => (scriptDly n).map .prim
  | .emitb v => (scriptEmitb p v).map .prim
  | .emitk k code => (scriptEmitk p k code).map .prim
  | .drow r => scriptDrow p r
  | .run => []

/-- The completion of an operation (R79, R82); RUN never completes (R166). -/
def complete : Instr → State → State
  | .rchg _, s | .ctrn _ _, s | .xlat _ _, s => s.finishReply
  | .run, s => s
  | .init, s | .scanr _, s | .sendb _, s | .mirb _, s | .dly _, s | .emitb _, s
  | .emitk _ _, s | .drow _, s => s.finishSilent

/-- A whole operation with the parameters `p`; for `Config.params` it is what `exec` answers. -/
def perform (p : Config.Params) (i : Instr) (s : State) : State :=
  match i with
  | .run => s.startRun
  | i => complete i (runActs p (script p i) s)

/-- What RUN has to do up to the end of the present turn of its loop: a turn begins when nothing is left
of the one before (R166). -/
def State.turnActs (p : Config.Params) (s : State) : List Act :=
  match s.inflight with
  | some ⟨_, _, a :: as⟩ => a :: as
  | _ => scriptTurn p s.rowIdx

/-- One turn of RUN's loop (R166). After reset with `AUTORUN = 1` RUN counts as accepted at the present
microsecond (R231); that the INIT which R231 has go before it shows no `done` is the model's choice (DESIGN
CHOICE, log 26). The turn leaves `rsp` as it was (DESIGN CHOICE, log 24). -/
def State.turn (p : Config.Params) (s : State) : State :=
  { runActs p (s.turnActs p) s with
    inflight := some ⟨.run, (s.inflight.map Flight.start).getD s.time, []⟩ }

/-- An operation found in flight is brought to its end. -/
def State.finishFlight (p : Config.Params) (f : Flight) (s : State) : State :=
  complete f.op (runActs p f.rest { s with inflight := none })

/-- One microsecond at a ready port to which the client presents nothing (93 U15). That `rsp` then keeps its
value is the model's choice (DESIGN CHOICE, log 24): R79 makes it valid only with `done`. -/
def State.idle (s : State) : State :=
  { s.pass 1 with
    client := match s.client with
      | ⟨n + 1, w⟩ :: rest => ⟨n, w⟩ :: rest
      | c => c }

/-- What the sequencer does next. -/
inductive Work where
  /-- Finish the operation in flight. -/
  | flight (f : Flight)
  /-- A turn of RUN's loop. -/
  | turn
  /-- Accept the word `w`; the client has `rest` to present afterwards (R79). -/
  | accept (w : Word) (rest : List Request)
  /-- Nothing: the port is ready and no word is presented. -/
  | idle
deriving DecidableEq, Repr

/-- What the sequencer does next, from `inflight`, `mode` and the command port (R27, R28, R79). -/
def State.work (s : State) : Work :=
  match s.inflight with
  | some f => if f.op = .run then .turn else .flight f
  | none =>
    match s.mode with
    | .run => .turn
    | .cmd =>
      match s.client with
      | ⟨0, w⟩ :: rest => .accept w rest
      | _ => .idle

/-- The next operation to its end, were rst not asserted. `ex` is the meaning of instructions. -/
def State.undisturbed (p : Config.Params)
    (ex : Instr → State → Host.Outcome State Fault Refusal) (s : State) :
    Host.Outcome State Fault Refusal :=
  match s.work with
  | .flight f => .next (s.finishFlight p f)
  | .turn => .next (s.turn p)
  | .idle => .next s.idle
  | .accept w rest =>
    match decode w with
    | .ok i => ex i { s with client := rest }
    | .error why => .refused (.reservedWord w why)

/-- Primitives up to microsecond `t`: those that would happen at `t` or later do not (R202, R243). -/
def runPrimsUntil (p : Config.Params) (t : Nat) : List Prim → State → State
  | [], s => s
  | a :: as, s => if t ≤ s.time then s else runPrimsUntil p t as (a.run p s)

/-- Acts up to microsecond `t`. -/
def runActsUntil (p : Config.Params) (t : Nat) : List Act → State → State
  | [], s => s
  | a :: as, s =>
    if t ≤ s.time then s
    else match a with
      | .prim q => runActsUntil p t as (q.run p s)
      | .columns r => runActsUntil p t as (runPrimsUntil p t (s.columnPrims p r) s)

/-- The state in which an rst at microsecond `t` finds the operation that was to be done next (R230,
R243): as far as it has come by then. -/
def State.cutAt (p : Config.Params) (t : Nat) (s : State) : State :=
  match s.work with
  | .flight f => runActsUntil p t f.rest s
  | .turn => runActsUntil p t (s.turnActs p) s
  | .idle => s.idle
  | .accept w rest =>
    match decode w with
    | .ok i => runActsUntil p t (script p i) { s with client := rest }
    | .error _ => s

/-- One step. An rst that is due comes first; an rst at or before the end of the operation ends it there
(R202: "Reset wins over everything"); otherwise the operation is done whole. -/
def State.stepBy (p : Config.Params)
    (ex : Instr → State → Host.Outcome State Fault Refusal) (s : State) :
    Host.Outcome State Fault Refusal :=
  match s.resets with
  | [] => s.undisturbed p ex
  | t :: _ =>
    if t ≤ s.time then .next (s.applyReset p s.time)
    else
      match s.undisturbed p ex with
      | .next s' => if t ≤ s'.time then .next ((s.cutAt p t).applyReset p t) else .next s'
      | o => o

end Sys2Proof.Machine
end

