-- ==== Sys2Proof/Machine/Dispatcher.lean ====
section
/-! DEFINITION. The translator and dispatcher family: XLAT, MIRB, DLY and the composites EMITB, EMITK,
DROW, RUN (42_translator_dispatcher.md). -/

namespace Sys2Proof.Machine

open Sys2Proof

/-- XLAT `r`, `c` (R160): responds the table's entry; 0 µs. -/
def execXlat (r : Row) (c : Col) (s : State) : Host.Outcome State Fault Refusal :=
  .next (s.inquire Config.params [.prim (.replyEntry r c)])

/-- MIRB `v` (R161): `Mirror(v)`, then `Wait(T_MIRROR)`. -/
def execMirb (v : Byte) (s : State) : Host.Outcome State Fault Refusal :=
  .next (s.operate Config.params ((scriptMirb Config.params v).map .prim))

/-- DLY `n` (R162): `Wait(n)`. -/
def execDly (n : BitVec 12) (s : State) : Host.Outcome State Fault Refusal :=
  .next (s.operate Config.params ((scriptDly n).map .prim))

/-- EMITB `v` (R163): the frame, the mirror byte, the deduction from the budget. -/
def execEmitb (v : Byte) (s : State) : Host.Outcome State Fault Refusal :=
  .next (s.operate Config.params ((scriptEmitb Config.params v).map .prim))

/-- EMITK `k`, `code` (R164): EMITB of each byte of the key event; nothing for the entry 0. -/
def execEmitk (k : Edge) (code : Code) (s : State) : Host.Outcome State Fault Refusal :=
  .next (s.operate Config.params ((scriptEmitk Config.params k code).map .prim))

/-- DROW `r` (R165): one iteration of the dispatcher. -/
def execDrow (r : Row) (s : State) : Host.Outcome State Fault Refusal :=
  .next (s.operate Config.params (scriptDrow Config.params r))

/-- RUN (R166): `mode <- RUN`; from here on each step is a turn of the endless loop, `DROW row_idx` and
then the next row (`State.turn`; log 1). RUN does not execute INIT, and never completes. -/
def execRun (s : State) : Host.Outcome State Fault Refusal := .next s.startRun

end Sys2Proof.Machine
end

