-- ==== Sys2Proof/Machine/Scanner.lean ====
section
/-! DEFINITION. The scanner family: INIT, SCANR, RCHG, CTRN (41_matrix_scanner.md). -/

namespace Sys2Proof.Machine

open Sys2Proof

/-- INIT (R130): every strobe released, both snapshots all released, every row unstrobed; 0 µs. -/
def execInit (s : State) : Host.Outcome State Fault Refusal :=
  .next (s.operate Config.params (scriptInit.map .prim))

/-- SCANR `r` (R131): strobe, settle, sample, release, shift; `T_SETTLE` µs. -/
def execScanr (r : Row) (s : State) : Host.Outcome State Fault Refusal :=
  .next (s.operate Config.params ((scriptScanr Config.params r).map .prim))

/-- RCHG `r` (R132): responds 1 if the row's snapshots differ, else 0; 0 µs. -/
def execRchg (r : Row) (s : State) : Host.Outcome State Fault Refusal :=
  .next (s.inquire Config.params [.prim (.replyChanged r)])

/-- CTRN `r`, `c` (R133): responds the cell's transition; 0 µs. -/
def execCtrn (r : Row) (c : Col) (s : State) : Host.Outcome State Fault Refusal :=
  .next (s.inquire Config.params [.prim (.replyTransition r c)])

end Sys2Proof.Machine
end

