-- ==== Sys2Proof/Machine/Transmitter.lean ====
section
/-! DEFINITION. The transmitter family: SENDB (40_ps2_transmitter.md). -/

namespace Sys2Proof.Machine

open Sys2Proof

/-- SENDB `v` (R101): the eleven slots of `frameBits v`; 660 µs. It reads no register and no wire
(R104, R108). -/
def execSendb (v : Byte) (s : State) : Host.Outcome State Fault Refusal :=
  .next (s.operate Config.params ((scriptSendb v).map .prim))

end Sys2Proof.Machine
end

