-- ==== Sys2Proof/Machine/Dispatch.lean ====
section
/-! DEFINITION. The meaning of each instruction, one arm per constructor of `Instr`. -/

namespace Sys2Proof.Machine

open Sys2Proof

def exec (i : Instr) (s : State) : Host.Outcome State Fault Refusal :=
  match i with
  | .init => Sys2Proof.Machine.execInit s
  | .scanr r => Sys2Proof.Machine.execScanr r s
  | .rchg r => Sys2Proof.Machine.execRchg r s
  | .ctrn r c => Sys2Proof.Machine.execCtrn r c s
  | .xlat r c => Sys2Proof.Machine.execXlat r c s
  | .sendb v => Sys2Proof.Machine.execSendb v s
  | .mirb v => Sys2Proof.Machine.execMirb v s
  | .dly n => Sys2Proof.Machine.execDly n s
  | .emitb v => Sys2Proof.Machine.execEmitb v s
  | .emitk k code => Sys2Proof.Machine.execEmitk k code s
  | .drow r => Sys2Proof.Machine.execDrow r s
  | .run => Sys2Proof.Machine.execRun s

end Sys2Proof.Machine
end

