-- ==== Sys2Proof/Machine/Step.lean ====
section
/-! DEFINITION. One step of the machine, and how an instruction is put where the next step takes it. -/

namespace Sys2Proof.Machine

open Sys2Proof

/-- One step with the parameters of `Config.params` and the meanings of `exec`. -/
def step (s : State) : Host.Outcome State Fault Refusal := s.stepBy Config.params exec

/-- `s` with the client presenting, as its next word and now, the command word `w` (bit 0 its least
significant bit), the port ready to take it (30_encoding.md R79) and no rst to come before it: the next
step accepts and executes exactly it (log 15). -/
def State.withFetchWord (s : State) (nbits w : Nat) : State :=
  { s with
    client := ⟨0, BitVec.ofNat 16 (w % 2 ^ nbits)⟩ :: s.client
    mode := .cmd
    inflight := none
    resets := [] }

end Sys2Proof.Machine
end

