-- ==== Sys2Proof/Machine/Micro.lean ====
section
/-! DEFINITION. The same block one primitive, or one microsecond of a wait, at a time, with the operation
in `inflight` (10_state.md R27). `step` takes an operation whole; R27 calls the two equivalent, and this
is the finer one: what is between the start and the end of an operation is a state here. -/

namespace Sys2Proof.Machine

open Sys2Proof

/-- An operation is accepted (30_encoding.md R79): its `t` is 0. -/
def State.accept (p : Config.Params) (i : Instr) (s : State) : State :=
  match i with
  | .run => s.startRun
  | i => { s with inflight := some ⟨i, s.time, script p i⟩ }

/-- The operation in flight has `rest` left to do. -/
def State.withRest (f : Flight) (rest : List Act) (s : State) : State :=
  { s with inflight := some { f with rest := rest } }

/-- The next thing the operation in flight does: a primitive in 0 µs, or one microsecond of a wait that
has begun; when nothing is left, RUN takes its next turn and any other operation completes. -/
def State.advance (p : Config.Params) (f : Flight) (s : State) : State :=
  match f.rest with
  | [] =>
    if f.op = .run then s.withRest f (scriptTurn p s.rowIdx)
    else complete f.op { s with inflight := none }
  | .columns r :: as => s.withRest f ((s.columnPrims p r).map .prim ++ as)
  | .prim (.wait n) :: as => (s.waitTime p n).2.withRest f (.prim (.delay (s.waitTime p n).1) :: as)
  | .prim .waitBudget :: as =>
    (s.waitTime p s.budget.toNat).2.withRest f (.prim (.delay (s.waitTime p s.budget.toNat).1) :: as)
  | .prim (.delay 0) :: as => s.withRest f as
  | .prim (.delay (n + 1)) :: as => (s.pass 1).withRest f (.prim (.delay n) :: as)
  | .prim a :: as => (a.run p s).withRest f as

/-- One fine step. An rst that is due comes before everything (R202). -/
def State.microStep (p : Config.Params) (s : State) : Host.Outcome State Fault Refusal :=
  if s.resets.head?.any (· ≤ s.time) then .next (s.applyReset p s.time)
  else
    match s.inflight with
    | some f => .next (s.advance p f)
    | none =>
      match s.work with
      | .turn => .next s.startRun
      | .accept w rest =>
        match decode w with
        | .ok i => .next (({ s with client := rest } : State).accept p i)
        | .error why => .refused (.reservedWord w why)
      | _ => .next s.idle

/-- `k` fine steps, if none of them is a refusal. -/
def State.microRun (p : Config.Params) : Nat → State → Option State
  | 0, s => some s
  | k + 1, s =>
    match s.microStep p with
    | .next s' => State.microRun p k s'
    | _ => none

end Sys2Proof.Machine
end

