-- ==== Sys2Proof/Safety.lean ====
section
/-! DEFINITION. The terms in which claims about the block are made: what can be seen of it (00_scope.md
R9), what a receiver makes of the two PS/2 lines, the closed forms of the spec's timing rules, and what
holds between operations. -/

namespace Sys2Proof.Machine

open Sys2Proof

/-! ## Observables -/

/-- The events since the last reset, oldest first. -/
def sinceReset : List Event → List Event
  | [] => []
  | e :: es =>
    if es.any (·.kind == .reset) then sinceReset es
    else if e.kind = .reset then es
    else e :: es

/-- The level of line `l` after an event, when it was `v` before it. -/
def Event.level (l : Line) (v : Level) (e : Event) : Level :=
  match e.kind with
  | .setLine l' v' => if l' = l then v' else v
  | .reset => true
  | _ => v

/-- The function `level_l(time)` of R9: the level that the latch of `l` holds at microsecond `t`, from
the events since the last reset. A latch takes its new level at the microsecond of the write (R102). -/
def levelAt (l : Line) (trace : List Event) (t : Nat) : Level :=
  ((sinceReset trace).filter (·.time ≤ t)).foldl (fun v e => e.level l v) true

/-- The bytes handed to the mirror, in order. -/
def mirrorBytes (es : List Event) : List Byte :=
  es.filterMap (fun e => match e.kind with
    | .mirror b => some b
    | _ => none)

/-- The indicator's events, in order. -/
def indEvents (es : List Event) : List Edge :=
  es.filterMap (fun e => match e.kind with
    | .ind k => some k
    | _ => none)

/-- The events less the completion pulses. -/
def withoutDone (es : List Event) : List Event := es.filter (fun e => e.kind != .done)

/-- The events on the lines and at the mirror. -/
def outputs (es : List Event) : List Event :=
  es.filter (fun e => match e.kind with
    | .setLine _ _ | .mirror _ => true
    | _ => false)

/-- The events that `t` has seen beyond those of `s`. -/
def eventsSince (s t : State) : List Event := t.trace.drop s.trace.length

/-- What the events are, without their times. -/
def kinds (es : List Event) : List EventKind := es.map Event.kind

/-- The events seen from `t0` on. -/
def relativeTo (t0 : Nat) (es : List Event) : List Event := es.map (fun e => ⟨e.time - t0, e.kind⟩)

/-! ## Runs -/

/-- `k` steps. -/
def runFor : Nat → State → Host.Outcome State Fault Refusal
  | 0, s => .next s
  | k + 1, s =>
    match step s with
    | .next t => runFor k t
    | o => o

/-- Operations one after another, with no time between them (30_encoding.md R84). -/
def execAll : List Instr → State → Host.Outcome State Fault Refusal
  | [], s => .next s
  | i :: is, s =>
    match exec i s with
    | .next t => execAll is t
    | o => o

/-! ## A receiver of the PS/2 lines (30_encoding.md R72, 40_ps2_transmitter.md R107) -/

/-- The byte a receiver recovers from the eleven levels of a frame: start 0, stop 1, an odd number of
ones among data and parity; bit `i` is the level of slot `i + 1`. -/
def decodeFrame (bits : List Level) : Option Byte :=
  match bits with
  | [b0, d0, d1, d2, d3, d4, d5, d6, d7, q, b10] =>
    if b0 = false ∧ b10 = true ∧ ([d0, d1, d2, d3, d4, d5, d6, d7, q].count true) % 2 = 1 then
      some (BitVec.ofBoolListLE [d0, d1, d2, d3, d4, d5, d6, d7])
    else none
  | _ => none

/-- A receiver: the levels of the two lines as it knows them, the bits of the frame it is in, and what
it has made of the frames before. -/
structure Receiver where
  clk : Level
  data : Level
  bits : List Level
  bytes : List (Option Byte)
deriving DecidableEq, Repr

/-- A receiver on an idle bus. -/
def Receiver.idle : Receiver := ⟨true, true, [], []⟩

/-- The receiver takes the level of `data` at a falling edge of `clk`; eleven make a frame. -/
def Receiver.fall (x : Receiver) : Receiver :=
  if (x.bits ++ [x.data]).length = Config.nSlots then
    { x with clk := false, bits := [], bytes := x.bytes ++ [decodeFrame (x.bits ++ [x.data])] }
  else { x with clk := false, bits := x.bits ++ [x.data] }

/-- What the receiver makes of an event. R107 speaks of a receiver of whole SENDBs, and R243 says only that
a frame cut by reset is truncated; that the receiver drops the bits of a cut frame at the reset, and so takes
the next frame in step, is the model's choice (DESIGN CHOICE, log 25). -/
def Receiver.see (x : Receiver) (e : Event) : Receiver :=
  match e.kind with
  | .setLine .clk false => if x.clk then x.fall else x
  | .setLine .clk true => { x with clk := true }
  | .setLine .data v => { x with data := v }
  | .reset => { x with clk := true, data := true, bits := [] }
  | _ => x

/-- What a receiver on an idle bus has received after the events. -/
def received (es : List Event) : Receiver := es.foldl Receiver.see Receiver.idle

/-! ## Closed forms -/

/-- The next answer of the matrix in state `s` (R137). -/
def State.nextSample (s : State) : RowState :=
  match s.samples with
  | v :: _ => v
  | [] => Config.freeSample s.draws

/-- How many free values a sample in state `s` takes: one if no answer of the matrix is listed. -/
def State.sampleDraws (s : State) : Nat := s.samples.isEmpty.toNat

/-- The `SetLine` events of a frame of `v` that starts at microsecond `t0` (R101, R103). -/
def frameEvents (t0 : Nat) (v : Byte) : List Event :=
  (List.range 11).flatMap (fun k =>
    [⟨t0 + 60 * k, .setLine .data ((frameBits v).getD k true)⟩,
     ⟨t0 + 60 * k + 15, .setLine .clk false⟩,
     ⟨t0 + 60 * k + 45, .setLine .clk true⟩])

/-- How long one byte takes on both outputs (R163). -/
def byteTime (p : Config.Params) : Nat := 660 + p.tMirror

/-- The events of sending the bytes one after another from microsecond `t0` (R163, R164): each frame,
then the mirror byte. -/
def bytesEvents (p : Config.Params) (t0 : Nat) : List Byte → List Event
  | [] => []
  | v :: vs => frameEvents t0 v ++ ⟨t0 + 660, .mirror v⟩ :: bytesEvents p (t0 + byteTime p) vs

/-- `budget` after `n` deductions (R171). -/
def budgetAfter (p : Config.Params) (b : BitVec 12) (n : Nat) : BitVec 12 :=
  BitVec.ofNat 12 (b.toNat - min b.toNat (n * p.tDeduct))

/-- The cells of row `r` that changed, in column order, each with its edge and its code (R165, R167). -/
def keyEvents (p : Config.Params) (r : Row) (prev cur : RowState) : List (Edge × Code) :=
  ([0, 1, 2, 3, 4, 5] : List Col).filterMap (fun c =>
    if prev.getLsbD c.val = true ∧ cur.getLsbD c.val = false then some (.pressed, p.table r c)
    else if prev.getLsbD c.val = false ∧ cur.getLsbD c.val = true then some (.released, p.table r c)
    else none)

/-- The bytes of the key events, in order. -/
def keyEventsBytes (ks : List (Edge × Code)) : List Byte :=
  ks.flatMap (fun k => keyBytes k.1 k.2)

/-- The events of DROW's step 3 from microsecond `t0` (R165, R169): for each key event the indicator,
then its bytes. -/
def keyEventsTrace (p : Config.Params) (t0 : Nat) : List (Edge × Code) → List Event
  | [] => []
  | k :: ks =>
    ⟨t0, .ind k.1⟩ :: (bytesEvents p t0 (keyBytes k.1 k.2) ++
      keyEventsTrace p (t0 + (keyBytes k.1 k.2).length * byteTime p) ks)

/-- `T_DROW(n)` (R168). -/
def drowTime (p : Config.Params) (n : Nat) : Nat :=
  p.tSettle + n * byteTime p + (4000 - min 4000 (n * p.tDeduct))

/-- `T_DROW(n)` with the machine's parameters (R168): 4015 µs up to six bytes, then 15 + 660 n. -/
def drowTimeDefault (n : Nat) : Nat := if n ≤ 6 then 4015 else 15 + 660 * n

/-- The sample the ideal matrix gives for row `r` when exactly the keys of `closed` are closed (R137; the
spec's own test fixture): bit `c` is 0 if key (`r`, `c`) is closed. -/
def idealSample (closed : Row → Col → Bool) (r : Row) : RowState :=
  BitVec.ofBoolListLE [!closed r 0, !closed r 1, !closed r 2, !closed r 3, !closed r 4, !closed r 5]

/-! ## What holds between operations -/

/-- All ten output latches are released (R22, R23, R24). -/
def LinesReleased (s : State) : Prop := (∀ r : Row, s.row[r] = true) ∧ s.clk = true ∧ s.data = true

/-- `budget` is at most `T_BUDGET` (R25). -/
def BudgetBounded (s : State) : Prop := s.budget.toNat ≤ 4000

/-- `v` is the block reset at microsecond `t` in work that began in `s` and, undisturbed, ends in `u` (R230,
R243): of the work's events those before `t`, then the reset; every register of the block but `rsp` at its
reset value. -/
def CutByReset (t : Nat) (s u v : State) : Prop :=
  v.trace = s.trace ++ (eventsSince s u).filter (·.time < t) ++ [⟨t, .reset⟩] ∧
  v.cur = State.reset.cur ∧ v.prev = State.reset.prev ∧ v.row = State.reset.row ∧
  v.clk = true ∧ v.data = true ∧ v.budget = 0 ∧ v.rowIdx = 0 ∧ v.inflight = none ∧
  v.mode = State.reset.mode ∧ v.strobed = State.reset.strobed ∧ v.time = 0

/-- No operation is in flight but RUN, which is between two turns, and that in mode RUN (R27, R28). -/
def AtRest (s : State) : Prop :=
  s.inflight = none ∨ (s.mode = .run ∧ ∃ t, s.inflight = some ⟨.run, t, []⟩)

/-- A row that has not been strobed holds the initial values (R29, R140). -/
def UnstrobedInitial (p : Config.Params) (s : State) : Prop :=
  ∀ r : Row, s.strobed[r] = false → s.cur[r] = p.curReset ∧ s.prev[r] = 0x3F

/-- The events since the last reset are in order of time and none lies ahead of the present. -/
def Chronological (s : State) : Prop :=
  (sinceReset s.trace).Pairwise (fun a b => a.time ≤ b.time) ∧
    ∀ e ∈ sinceReset s.trace, e.time ≤ s.time

/-- The trace tells the present level of every latch (R9). -/
def TraceAgrees (s : State) : Prop := ∀ l : Line, levelAt l s.trace s.time = s.latch l

/-- What holds between operations. -/
def BetweenOps (p : Config.Params) (s : State) : Prop :=
  AtRest s ∧ LinesReleased s ∧ BudgetBounded s ∧ UnstrobedInitial p s

/-! ## What holds at every fine step (41_matrix_scanner.md R136) -/

/-- The acts, run while the strobe of `low` is low (of none, if `none`), never lower a second strobe,
release only the strobe that is low, and leave none low. -/
def strobePlan : Option Row → List Act → Bool
  | low, [] => low.isNone
  | low, .columns _ :: as => low.isNone && strobePlan none as
  | low, .prim a :: as =>
    match a with
    | .setLine (.row r) false => low.isNone && strobePlan (some r) as
    | .setLine (.row r) true => (low.isNone || low == some r) && strobePlan none as
    | .capture r => low == some r && strobePlan none as
    | _ => strobePlan low as

/-- At most one strobe is low, and one is low only while an operation is in flight whose remaining acts
release it. -/
def StrobeSafe (s : State) : Prop :=
  ∃ low : Option Row, (∀ r : Row, s.row[r] = false ↔ low = some r) ∧
    match s.inflight with
    | none => low = none
    | some f => strobePlan low f.rest = true

end Sys2Proof.Machine
end

