-- ==== Sys2Proof/Certificates/Slice0/Obligations.lean ====
section
/-! DEFINITION. The statements for the provers. Each docstring names the rule of spec/ it comes from; where
the rule is the spec's own decision (D<n>) or inference, or a choice of the model's (log <n>), it says so. -/

open Sys2Proof Sys2Proof.Machine

/-! ## Reset -/

/-- 10_state.md R36. The document states `prev`, `row` and `clk`; `cur`, `data`, `budget`, `row_idx`,
`strobed` and `mode` are the spec's own decisions D5, D15, D24, D18, D27, D13 (log 10, 11, 12). -/
def Obligations.ResetLeavesTheStatedValues : Prop :=
  (∀ r : Row, State.reset.prev[r] = 0x3F ∧ State.reset.row[r] = true ∧
    State.reset.cur[r] = 0x3F ∧ State.reset.strobed[r] = false) ∧
  State.reset.clk = true ∧ State.reset.data = true ∧ State.reset.budget = 0 ∧
  State.reset.rowIdx = 0 ∧ State.reset.inflight = none ∧ State.reset.time = 0 ∧
  (State.reset.mode = .run ↔ Config.autorun = true)

/-- The invariants stated below hold of the state after reset. -/
def Obligations.ResetSatisfiesTheInvariants : Prop :=
  BetweenOps Config.params State.reset ∧ Chronological State.reset ∧
    TraceAgrees State.reset ∧ StrobeSafe State.reset

/-- 70_reset_and_hazards.md R230, 60_exceptions.md R202: an rst that is due comes before anything the
sequencer would do, from any state, and leaves the block as `State.reset` has it. That the client, the
matrix and the record of events go on is the model's choice (log 6, 13, 19), and so is that `rsp` is 0 then
(log 5). -/
def Obligations.DueResetWinsOverEverything : Prop :=
  ∀ (s : State) (t : Nat) (ts : List Nat), s.resets = t :: ts → t ≤ s.time →
    step s = .next { State.reset with
      trace := s.trace ++ [⟨s.time, .reset⟩], client := s.client, samples := s.samples
      resets := ts, draws := s.draws }

/-- 70_reset_and_hazards.md R230, R243 (the spec's own inference; at the very microsecond `t` the reset
wins: log 6). An rst at `t` inside an operation leaves of its events those before `t`, and resets the block;
an rst after its end leaves it whole. First for an accepted operation by its meaning, then for whatever a
step does without the rst, from any state: an operation, a turn of RUN, an idle microsecond. -/
def Obligations.ResetCutsTheOperationInFlight : Prop :=
  (∀ (s u : State) (w : Word) (rest : List Request) (i : Instr) (t : Nat) (ts : List Nat),
    s.cmdReady = true → s.client = ⟨0, w⟩ :: rest → decode w = .ok i →
    s.resets = t :: ts → s.time < t → exec i { s with client := rest } = .next u →
    if t ≤ u.time then
      ∃ v, step s = .next v ∧ CutByReset t s u v ∧ v.client = rest ∧ v.resets = ts
    else step s = .next u) ∧
  (∀ (s u : State) (t : Nat) (ts : List Nat),
    s.resets = t :: ts → s.time < t → step { s with resets := [] } = .next u →
    if t ≤ u.time then
      ∃ v, step s = .next v ∧ CutByReset t s u v ∧ v.client = u.client ∧ v.resets = ts
    else step s = .next { u with resets := t :: ts })

/-! ## Command words -/

/-- 30_encoding.md R80 (the spec's own decision D3). No operand bit is dropped: the word of an operation,
as the decoder and as the opcode table's numbering reads it, is that operation. -/
def Obligations.DecodingAnEncodedInstructionGivesItBack : Prop :=
  ∀ i : Instr, i.wellFormed = true →
    decode (encode i) = .ok i ∧ decodeTableWord 16 (encode i).toNat = some i

/-- 30_encoding.md R80: a word has one meaning; whatever decodes is the encoding of what it decodes to. -/
def Obligations.EncodingADecodedWordGivesItBack : Prop :=
  ∀ (w : Word) (i : Instr), decode w = .ok i → encode i = w

/-- 30_encoding.md R80, R81 (the spec's own decision D3): the decoder accepts exactly the words that match
a row of R80, and "the twelve match/mask pairs are disjoint, so at most one applies". -/
def Obligations.DecoderAcceptsExactlyTheRowsOfTheTable : Prop :=
  ∀ w : Word, ((∃ i, decode w = .ok i) ↔ wordWellFormed w = true) ∧
    (encodingTable.filter (·.accepts w)).length ≤ 1

/-- 30_encoding.md R80, words written out in 95_test_vectors.md V40, one of each operation at least. -/
def Obligations.SpelledOutWordsDecode : Prop :=
  decode 0b0000000000000000 = .ok .init ∧
  decode 0b0001000000000111 = .ok (.scanr 7) ∧
  decode 0b0010000000000111 = .ok (.rchg 7) ∧
  decode 0b0011000000010001 = .ok (.ctrn 1 2) ∧
  decode 0b0100000000101011 = .ok (.xlat 3 5) ∧
  decode 0b0101000000010010 = .ok (.sendb 0x12) ∧
  decode 0b0110000000010010 = .ok (.mirb 0x12) ∧
  decode 0b0111011111100100 = .ok (.dly 2020) ∧
  decode 0b1000000011100000 = .ok (.emitb 0xE0) ∧
  decode 0b1001000000010010 = .ok (.emitk .pressed 0x012) ∧
  decode 0b1001001101110101 = .ok (.emitk .released 0x175) ∧
  decode 0b1010000000000111 = .ok (.drow 7) ∧
  decode 0b1011000000000000 = .ok .run

/-- 30_encoding.md R81, 60_exceptions.md R211 (the spec's own decisions D3, D14, D21): a reserved word
that the port would accept is refused, by the reason R81 gives; the model stops there (log 14). -/
def Obligations.ReservedWordsAreRefused : Prop :=
  ∀ (s : State) (w : Word) (rest : List Request),
    s.cmdReady = true → s.resets = [] → s.client = ⟨0, w⟩ :: rest → wordWellFormed w = false →
    ∃ why, decode w = .error why ∧ step s = .refused (.reservedWord w why) ∧
      (why = .operation ↔ 0xC ≤ (w.extractLsb' 12 4).toNat) ∧
      (why = .column → 6 ≤ (w.extractLsb' 3 3).toNat)

/-! ## Steps -/

/-- 30_encoding.md R79 (the spec's own decision D3): a step of a ready block to which a word is presented
accepts it and executes the operation it names; around `exec` the step only takes the word from the
port. -/
def Obligations.StepRunsTheDecodedInstruction : Prop :=
  ∀ (s : State) (w : Word) (rest : List Request) (i : Instr),
    s.cmdReady = true → s.resets = [] → s.client = ⟨0, w⟩ :: rest →
    decode w = .ok i → i.wellFormed = true →
    step s = exec i { s with client := rest }

/-- Every operation can be run from any state: with its word presented to a ready port, the step is that
operation (30_encoding.md R79; log 15). -/
def Obligations.EveryInstructionCanBeFetched : Prop :=
  ∀ (s : State) (i : Instr),
    step (s.withFetchWord 16 (encode i).toNat) =
      exec i { s with mode := .cmd, inflight := none, resets := [] }

/-- 93_implementation_defined.md U15, 70_reset_and_hazards.md R231: while the client presents nothing to a
ready port, a microsecond passes and nothing else happens: no event, no line driven. That a step without
a word is one microsecond (log 2), and that `rsp` keeps its value (log 24), are the model's choices. -/
def Obligations.NothingHappensUntilAWordIsPresented : Prop :=
  ∀ (s : State), s.cmdReady = true → s.resets = [] →
    (s.client = [] → step s = .next { s with time := s.time + 1 }) ∧
    (∀ n w rest, s.client = ⟨n + 1, w⟩ :: rest →
      step s = .next { s with time := s.time + 1, client := ⟨n, w⟩ :: rest })

/-- 30_encoding.md R79, 10_state.md R27, R28, 70_reset_and_hazards.md R233 (the spec's own decision D3):
the port is ready exactly when no operation is in flight and the mode is CMD, which is when the block is
not busy; a word presented to a block that is not ready has no effect and is still held after the step. -/
def Obligations.BusyBlockTakesNoWord : Prop :=
  (∀ s : State, s.cmdReady = !s.busy ∧
    (s.cmdReady = true ↔ s.inflight = none ∧ s.mode = .cmd)) ∧
  (∀ s t : State, s.cmdReady = false → step s = .next t → t.client = s.client) ∧
  (∀ (s : State) (c : List Request), s.cmdReady = false → s.resets = [] →
    ∃ t, step s = .next t ∧ step { s with client := c } = .next { t with client := c })

/-- 60_exceptions.md R200: the block raises no fault, in any operation and in any step; every operation
has a next state. -/
def Obligations.NoOperationAndNoStepFaults : Prop :=
  (∀ (i : Instr) (s : State), ∃ t, exec i s = .next t) ∧
  (∀ (s : State) (f : Fault), step s ≠ .fault f)

/-! ## The scanner -/

/-- 41_matrix_scanner.md R130. That `cur` is set too is the spec's own decision D5 (log 11). `rsp` after it is a
free value (R82; log 4). -/
def Obligations.InitReleasesEverything : Prop :=
  ∀ s : State, exec .init s = .next { s with
    row := Vector.replicate 8 true
    prev := Vector.replicate 8 0x3F
    cur := Vector.replicate 8 0x3F
    strobed := Vector.replicate 8 false
    rsp := Config.freeResponse s.draws
    draws := s.draws + 1
    trace := s.trace ++
      ([0, 1, 2, 3, 4, 5, 6, 7] : List Row).map (fun r => ⟨s.time, .setLine (.row r) true⟩) ++
      [⟨s.time, .done⟩] }

/-- 41_matrix_scanner.md R131, 20_memory.md R54. That sample and release are both at `t = T_SETTLE = 15`
is the spec's own decision D6, D16 (log 7, 21); exact waits: log 8. -/
def Obligations.ScanrShiftsTheSampleIn : Prop :=
  ∀ (r : Row) (s : State), exec (.scanr r) s = .next { s with
    row := put s.row r true
    prev := put s.prev r s.cur[r]
    cur := put s.cur r s.nextSample
    strobed := put s.strobed r true
    time := s.time + 15
    samples := s.samples.tail
    rsp := Config.freeResponse (s.draws + s.sampleDraws)
    draws := s.draws + s.sampleDraws + 1
    trace := s.trace ++
      [⟨s.time, .setLine (.row r) false⟩, ⟨s.time + 15, .sample r s.nextSample⟩,
       ⟨s.time + 15, .setLine (.row r) true⟩, ⟨s.time + 15, .done⟩] }

/-- 41_matrix_scanner.md R132: the whole effect of RCHG, and when its response is 1. -/
def Obligations.RchgRespondsWhetherTheRowChanged : Prop :=
  (∀ r : Row, encode (.rchg r) = 0x2000 + BitVec.ofNat 16 r.val) ∧
  ∀ (r : Row) (s : State),
    let v : BitVec 9 := if s.cur[r] ≠ s.prev[r] then 1 else 0
    exec (.rchg r) s = .next { s with
      rsp := v, trace := s.trace ++ [⟨s.time, .rsp v⟩, ⟨s.time, .done⟩] } ∧
    (v = 1 ↔ s.cur[r] ^^^ s.prev[r] ≠ 0) ∧
    (v = 1 ↔ ∃ c : Col, s.cur[r].getLsbD c.val ≠ s.prev[r].getLsbD c.val) ∧
    (s.cur[r] = 0x3F → s.prev[r] = 0x3F → v = 0)

/-- 41_matrix_scanner.md R133, 30_encoding.md R75. The response numbers are the spec's own decision D4, and
that CTRN signals no indicator is its decision D11. -/
def Obligations.CtrnRespondsTheTransition : Prop :=
  ∀ (r : Row) (c : Col) (s : State),
    let v : BitVec 9 :=
      if s.prev[r].getLsbD c.val = true ∧ s.cur[r].getLsbD c.val = false then 1
      else if s.prev[r].getLsbD c.val = false ∧ s.cur[r].getLsbD c.val = true then 2
      else 0
    exec (.ctrn r c) s = .next { s with
      rsp := v, trace := s.trace ++ [⟨s.time, .rsp v⟩, ⟨s.time, .done⟩] }

/-- 41_matrix_scanner.md R134 (the spec's own inference): a row has changed exactly when some cell of it
has a transition; the pressed and the released set are bit vectors that make up the change. -/
def Obligations.RowChangedIffSomeTransition : Prop :=
  ∀ prev cur : RowState,
    (changed prev cur = true ↔ ∃ c : Col, transition prev cur c ≠ .none) ∧
    (∀ c : Col, (pressedSet prev cur).getLsbD c.val = true ↔ transition prev cur c = .pressed) ∧
    (∀ c : Col, (releasedSet prev cur).getLsbD c.val = true ↔ transition prev cur c = .released) ∧
    pressedSet prev cur ||| releasedSet prev cur = cur ^^^ prev

/-- 41_matrix_scanner.md R138 (the spec's own inference). Two SCANRs of a row whose samples are `s1` and
`s2`: the transitions after the second compare `s1` with `s2`, so a cell that stayed reports none, and
nothing is left of what the row held before. -/
def Obligations.EachEdgeIsReportedOnce : Prop :=
  ∀ (r : Row) (s : State) (s1 s2 : RowState) (rest : List RowState), s.samples = s1 :: s2 :: rest →
    ∃ t u, exec (.scanr r) s = .next t ∧ exec (.scanr r) t = .next u ∧
      (∀ c, t.cellTransition r c = transition s.cur[r] s1 c) ∧
      (∀ c, u.cellTransition r c = transition s1 s2 c) ∧
      (∀ c, s1.getLsbD c.val = s2.getLsbD c.val → u.cellTransition r c = .none) ∧
      (s1 = s2 → u.rowChanged r = false)

/-- 41_matrix_scanner.md R139 (rests on the spec's own decision D5, log 11). The first scan of a row after reset
or INIT reports `pressed` for the keys that are down, and `released` for none. -/
def Obligations.FirstScanReportsNoRelease : Prop :=
  ∀ (r : Row) (s : State), s.cur[r] = 0x3F →
    ∃ t, exec (.scanr r) s = .next t ∧ ∀ c : Col,
      t.cellTransition r c ≠ .released ∧
      (t.cellTransition r c = .pressed ↔ s.nextSample.getLsbD c.val = false)

/-- 41_matrix_scanner.md R140 (the spec's own inference; decision D27). RCHG and CTRN of a row that has
not been strobed are legal and respond 0 and none. -/
def Obligations.UnstrobedRowReadsUnchanged : Prop :=
  ∀ (r : Row) (s : State), UnstrobedInitial Config.params s → s.strobed[r] = false →
    (∃ t, exec (.rchg r) s = .next t ∧ t.rsp = 0) ∧
    ∀ c : Col, ∃ t, exec (.ctrn r c) s = .next t ∧ t.rsp = 0

/-! ## The transmitter -/

/-- 30_encoding.md R71: odd parity. -/
def Obligations.ParityMakesTheOnesOdd : Prop :=
  ∀ v : Byte,
    (par v).toNat = 1 - popcount v % 2 ∧
    par v = !(v.getLsbD 0 ^^ v.getLsbD 1 ^^ v.getLsbD 2 ^^ v.getLsbD 3 ^^ v.getLsbD 4 ^^
      v.getLsbD 5 ^^ v.getLsbD 6 ^^ v.getLsbD 7) ∧
    (popcount v + (par v).toNat) % 2 = 1 ∧
    par 0x00 = true ∧ par 0xFF = true ∧ par 0x01 = false ∧ par 0x80 = false

/-- 30_encoding.md R72: the frame as a number, and what a receiver makes of it. -/
def Obligations.FrameNumberIsTheFrame : Prop :=
  (∀ v : Byte,
    frame11 v = (1 <<< 10) ||| ((BitVec.ofBool (par v)).setWidth 11 <<< 9) |||
      (v.setWidth 11 <<< 1) ∧
    (∀ k : Fin 11, (frame11 v).getLsbD k.val = (frameBits v).getD k.val true) ∧
    (frame11 v).getLsbD 0 = false ∧ (frame11 v).getLsbD 10 = true ∧
    (frame11 v).extractLsb' 1 8 = v ∧
    decodeFrame (frameBits v) = some v) ∧
  (∀ f : Fin 11 → Level,
    (decodeFrame (List.ofFn f)).isSome = true ↔
      f 0 = false ∧ f 10 = true ∧
        ([f 1, f 2, f 3, f 4, f 5, f 6, f 7, f 8, f 9].count true) % 2 = 1) ∧
  frame11 0x12 = 0x624 ∧ frame11 0xE0 = 0x5C0 ∧ frame11 0xF0 = 0x7E0 ∧
    frame11 0x00 = 0x600 ∧ frame11 0xFF = 0x7FE

/-- 40_ps2_transmitter.md R101, R73: the whole effect of SENDB, its 33 `SetLine` calls at their times, on
any state; it reads none of it. Exact waits: log 8; `rsp` is a free value (log 4). -/
def Obligations.SendbMakesTheFrame : Prop :=
  (∀ v : Byte, encode (.sendb v) = 0x5000 + v.setWidth 16) ∧
  ∀ (v : Byte) (s : State), exec (.sendb v) s = .next { s with
    clk := true, data := true
    time := s.time + 660
    rsp := Config.freeResponse s.draws
    draws := s.draws + 1
    trace := s.trace ++
      (List.range 11).flatMap (fun k =>
        [⟨s.time + 60 * k, .setLine .data ((frameBits v).getD k true)⟩,
         ⟨s.time + 60 * k + 15, .setLine .clk false⟩,
         ⟨s.time + 60 * k + 45, .setLine .clk true⟩]) ++
      [⟨s.time + 660, .done⟩] }

/-- 40_ps2_transmitter.md R102 (the spec's own inference): the two latches at every microsecond of a SENDB,
and after it, with exact waits (decision D1, log 8). The premises say that the trace so far is a record of the
past and that the clock is released; both are invariants of the machine. -/
def Obligations.WaveformInClosedForm : Prop :=
  ∀ (v : Byte) (s : State), Chronological s → TraceAgrees s → s.clk = true →
    ∃ t, exec (.sendb v) s = .next t ∧
      (∀ d, d < 660 →
        levelAt .data t.trace (s.time + d) = (frameBits v).getD (d / 60) true ∧
        levelAt .clk t.trace (s.time + d) = !(decide (15 ≤ d % 60) && decide (d % 60 < 45))) ∧
      (∀ d, 660 ≤ d →
        levelAt .data t.trace (s.time + d) = true ∧ levelAt .clk t.trace (s.time + d) = true)

/-- 40_ps2_transmitter.md R107 (the spec's own inference): a receiver that takes `data` at each falling
edge of `clk` recovers the byte, and is left on an idle bus (the receiver: log 25). -/
def Obligations.ReceiverRecoversTheByte : Prop :=
  ∀ (v : Byte) (s : State), ∃ t, exec (.sendb v) s = .next t ∧
    received (eventsSince s t) = { Receiver.idle with bytes := [some v] }

/-- 40_ps2_transmitter.md R108, 10_state.md R35: the waveform of a SENDB depends on the byte and the start
time only: from any two states, the same events, shifted in time (exact waits: log 8). -/
def Obligations.TransmitterKeepsNothingBetweenBytes : Prop :=
  ∀ (v : Byte) (s s' : State), ∃ t t',
    exec (.sendb v) s = .next t ∧ exec (.sendb v) s' = .next t' ∧
    relativeTo s.time (eventsSince s t) = relativeTo s'.time (eventsSince s' t')

/-- 20_memory.md R60 (the spec's own decisions D2, D20): a wire is low when any driver drives low, and the
block's latch decides alone when no other driver does. -/
def Obligations.WireIsLowIfAnyDriverIsLow : Prop :=
  ∀ (latch : Level) (others : List Level),
    (wire latch others = false ↔ latch = false ∨ false ∈ others) ∧
    ((∀ o ∈ others, o = true) → wire latch others = latch)

/-! ## The translator and the dispatcher -/

/-- 42_translator_dispatcher.md R160: the whole effect of XLAT, for the machine's table and for any other. -/
def Obligations.XlatRespondsTheEntry : Prop :=
  (∀ (r : Row) (c : Col) (s : State),
    exec (.xlat r c) s = .next { s with
      rsp := Config.table r c
      trace := s.trace ++ [⟨s.time, .rsp (Config.table r c)⟩, ⟨s.time, .done⟩] }) ∧
  ∀ (p : Config.Params) (r : Row) (c : Col) (s : State),
    (perform p (.xlat r c) s).rsp = p.table r c

/-- 10_state.md R32 and decision D12: what is known of the machine's table, and that XLAT responds it.
That every entry is decodable (D12 (c) to (e)) is the spec's own reading; that the table is some such
table is the model's (log 9). -/
def Obligations.TableHoldsWhatIsKnownOfIt : Prop :=
  Config.params.WF ∧ Config.params.table = Config.table ∧
  (∀ s : State, ∃ t, exec (.xlat 0 0) s = .next t ∧ t.rsp = 0x012) ∧
  (∀ (r : Row) (s : State), ∃ t, exec (.xlat r 5) s = .next t ∧
    (t.rsp ≠ 0 ↔ r = Config.auxRow))

/-- 42_translator_dispatcher.md R161 (duration: the spec's own decision D10, `T_MIRROR = 0`, log 7). -/
def Obligations.MirbHandsTheByteOver : Prop :=
  ∀ (v : Byte) (s : State), exec (.mirb v) s = .next { s with
    rsp := Config.freeResponse s.draws
    draws := s.draws + 1
    trace := s.trace ++ [⟨s.time, .mirror v⟩, ⟨s.time, .done⟩] }

/-- 42_translator_dispatcher.md R162, 00_scope.md R8 (with `DELAY_MODE = exact`, the spec's decision D1,
log 8). -/
def Obligations.DlyWaits : Prop :=
  ∀ (n : BitVec 12) (s : State), exec (.dly n) s = .next { s with
    time := s.time + n.toNat
    rsp := Config.freeResponse s.draws
    draws := s.draws + 1
    trace := s.trace ++ [⟨s.time + n.toNat, .done⟩] }

/-- 42_translator_dispatcher.md R163 (the order frame, mirror, deduction and `T_MIRROR = 0` are the spec's
own decision D10; `T_DEDUCT = 660` its decision D7, log 7; exact waits: log 8). -/
def Obligations.EmitbSendsOnBothOutputsAndCharges : Prop :=
  ∀ (v : Byte) (s : State), exec (.emitb v) s = .next { s with
    clk := true, data := true
    time := s.time + 660
    budget := BitVec.ofNat 12 (s.budget.toNat - min s.budget.toNat 660)
    rsp := Config.freeResponse s.draws
    draws := s.draws + 1
    trace := s.trace ++ frameEvents s.time v ++
      [⟨s.time + 660, .mirror v⟩, ⟨s.time + 660, .done⟩] }

/-- 42_translator_dispatcher.md R164: the whole effect of EMITK; what its bytes are, how many, and how the
budget falls. The amount deducted and `T_MIRROR = 0` are the defaults of log 7, exact waits that of log 8. -/
def Obligations.EmitkSendsTheKeySequence : Prop :=
  ∀ (k : Edge) (code : Code) (s : State),
    let vs : List Byte := keyBytes k code
    exec (.emitk k code) s = .next { s with
      clk := if code = 0 then s.clk else true
      data := if code = 0 then s.data else true
      time := s.time + vs.length * 660
      budget := BitVec.ofNat 12 (s.budget.toNat - min s.budget.toNat (vs.length * 660))
      rsp := Config.freeResponse s.draws
      draws := s.draws + 1
      trace := s.trace ++ bytesEvents Config.params s.time vs ++
        [⟨s.time + vs.length * 660, .done⟩] } ∧
    (code = 0 → vs = []) ∧
    (code ≠ 0 → vs =
      (if code.getLsbD 8 = true then [0xE0] else []) ++ (if k = .released then [0xF0] else []) ++
        [code.setWidth 8]) ∧
    (code ≠ 0 → vs.length =
      1 + (code.getLsbD 8).toNat + (if k = .released then 1 else 0))

/-- 30_encoding.md R78 (under D12 (d), the spec's own reading of the valid range): the byte stream of key
events is uniquely decodable: from what follows, the first event can be told. -/
def Obligations.KeySequencesAreUniquelyDecodable : Prop :=
  ∀ (k k' : Edge) (code code' : Code) (rest rest' : List Byte),
    Config.EntryOk code → Config.EntryOk code' → code ≠ 0 → code' ≠ 0 →
    keyBytes k code ++ rest = keyBytes k' code' ++ rest' →
    k = k' ∧ code = code' ∧ rest = rest'

/-- 42_translator_dispatcher.md R165, R167, R169: the whole effect of DROW: the sample, then for each
changed cell in ascending column order (the spec's decision D9) the indicator (D11) and the bytes of its
table entry, then the wait for the rest of the budget. Parameters: log 7, 8. -/
def Obligations.DrowDoesOneRow : Prop :=
  ∀ (r : Row) (s : State),
    let ks := keyEvents Config.params r s.cur[r] s.nextSample
    let n := (keyEventsBytes ks).length
    let left := 4000 - min 4000 (n * 660)
    exec (.drow r) s = .next { s with
      row := put s.row r true
      prev := put s.prev r s.cur[r]
      cur := put s.cur r s.nextSample
      strobed := put s.strobed r true
      clk := if n = 0 then s.clk else true
      data := if n = 0 then s.data else true
      budget := BitVec.ofNat 12 left
      time := s.time + 15 + n * 660 + left
      samples := s.samples.tail
      rsp := Config.freeResponse (s.draws + s.sampleDraws)
      draws := s.draws + s.sampleDraws + 1
      trace := s.trace ++
        [⟨s.time, .setLine (.row r) false⟩, ⟨s.time + 15, .sample r s.nextSample⟩,
         ⟨s.time + 15, .setLine (.row r) true⟩] ++
        keyEventsTrace Config.params (s.time + 15) ks ++
        [⟨s.time + 15 + n * 660 + left, .done⟩] }

/-- 42_translator_dispatcher.md R168 (the spec's own inference), with any parameters and exact waits; with
the defaults, and that a row sends at most 18 bytes. -/
def Obligations.DrowTakesItsTime : Prop :=
  (∀ (p : Config.Params) (r : Row) (s : State), p.delayMode = .exact →
    (perform p (.drow r) s).time =
      s.time + drowTime p (keyEventsBytes (keyEvents p r s.cur[r] s.nextSample)).length) ∧
  (∀ n, drowTime Config.params n = drowTimeDefault n) ∧
  (∀ (p : Config.Params) (r : Row) (prev cur : RowState),
    (keyEventsBytes (keyEvents p r prev cur)).length ≤ 18)

/-- 42_translator_dispatcher.md R170: a change of a cell mapped to code 0, the only change of its row,
sends no byte on either output and leaves the budget. That the indicator is told all the same is R169, the
spec's own decision D11 (log 17); that it all takes 4015 µs rests on `T_SETTLE = 15` and exact waits (the
spec's decisions D6, D1; log 7, 8). -/
def Obligations.UnmappedCellCostsNothing : Prop :=
  ∀ (r : Row) (c : Col) (s : State),
    Config.table r c = 0 → s.nextSample = s.cur[r] ^^^ (1 <<< c.val) →
    ∃ t, exec (.drow r) s = .next t ∧
      mirrorBytes (eventsSince s t) = [] ∧ (received (eventsSince s t)).bytes = [] ∧
      (received (eventsSince s t)).bits = [] ∧ (indEvents (eventsSince s t)).length = 1 ∧
      t.budget = 4000 ∧ t.time = s.time + 4015

/-- 42_translator_dispatcher.md R171: EMITBs one after another; the budget never wraps, the bytes go out in
order on both outputs (R105, R172: the spec's own inferences), and three of them from 4000 leave 2020. The
660 a byte, deducted and taken, are `T_DEDUCT = 660`, `T_MIRROR = 0` and exact waits (log 7, 8). -/
def Obligations.BudgetSaturatesOverAnyBytes : Prop :=
  (∀ (vs : List Byte) (s : State), ∃ t, execAll (vs.map .emitb) s = .next t ∧
    t.budget.toNat = s.budget.toNat - min s.budget.toNat (vs.length * 660) ∧
    t.time = s.time + vs.length * 660 ∧
    mirrorBytes (eventsSince s t) = vs ∧
    received (eventsSince s t) = { Receiver.idle with bytes := vs.map some }) ∧
  (∀ (u v w : Byte) (s : State), s.budget = 4000 →
    ∃ t, execAll [.emitb u, .emitb v, .emitb w] s = .next t ∧ t.budget = 2020)

/-- 95_test_vectors.md S5, the document's scenario: Caps-Shift pressed sends 0x12 and no prefix, on both
outputs, and lights the indicator (its place: the spec's decision D11, log 17). The budget of 3340 and the
4015 µs are not of the scenario: they rest on `T_DEDUCT = 660`, `T_SETTLE = 15`, `T_MIRROR = 0` and exact waits
(the spec's decisions D7, D6, D10, D1; log 7, 8). -/
def Obligations.CapsShiftScenario : Prop :=
  ∀ s : State, s.cur[(0 : Row)] = 0x3F → s.nextSample = 0x3E →
    ∃ t, exec (.drow 0) s = .next t ∧
      (received (eventsSince s t)).bytes = [some 0x12] ∧ mirrorBytes (eventsSince s t) = [0x12] ∧
      indEvents (eventsSince s t) = [.pressed] ∧ t.budget = 3340 ∧ t.time = s.time + 4015

/-- 42_translator_dispatcher.md R172 (the spec's own inference): in any step of the dispatcher's
operations, what a receiver recovers from the PS/2 lines is, byte for byte, what the mirror is given, and
the receiver is left on an idle bus. -/
def Obligations.MirrorIsInLockstepWithTheWire : Prop :=
  (∀ (i : Instr) (s : State),
    ((∃ v, i = .emitb v) ∨ (∃ k code, i = .emitk k code) ∨ (∃ r, i = .drow r)) →
    ∃ t, exec i s = .next t ∧
      received (eventsSince s t) =
        { Receiver.idle with bytes := (mirrorBytes (eventsSince s t)).map some }) ∧
  (∀ s : State, s.mode = .run → AtRest s → s.resets = [] →
    ∃ t, step s = .next t ∧
      received (eventsSince s t) =
        { Receiver.idle with bytes := (mirrorBytes (eventsSince s t)).map some })

/-- 30_encoding.md R84 (the spec's own inference): a composite is its expansion, issued with no time between:
EMITB against SENDB, MIRB and the deduction (R84's `T_DEDUCT` is 660 here: decision D7, log 7); EMITK against
EMITBs; DROW against SCANR, EMITKs and DLY with the budget loaded, less the events that have no command of
their own. -/
def Obligations.CompositesEqualTheirExpansions : Prop :=
  (∀ (v : Byte) (s : State), ∃ a b,
    exec (.emitb v) s = .next a ∧ execAll [.sendb v, .mirb v] s = .next b ∧
    withoutDone (eventsSince s a) = withoutDone (eventsSince s b) ∧
    a.time = b.time ∧ a.clk = b.clk ∧ a.data = b.data ∧ a.cur = b.cur ∧ a.prev = b.prev ∧
    a.row = b.row ∧ a.budget.toNat = b.budget.toNat - min b.budget.toNat 660) ∧
  (∀ (k : Edge) (code : Code) (s : State), ∃ a b,
    exec (.emitk k code) s = .next a ∧ execAll ((keyBytes k code).map .emitb) s = .next b ∧
    withoutDone (eventsSince s a) = withoutDone (eventsSince s b) ∧
    a.time = b.time ∧ a.clk = b.clk ∧ a.data = b.data ∧ a.cur = b.cur ∧ a.prev = b.prev ∧
    a.row = b.row ∧ a.budget = b.budget) ∧
  (∀ (r : Row) (s : State),
    let ks := keyEvents Config.params r s.cur[r] s.nextSample
    ∃ a b, exec (.drow r) s = .next a ∧
    execAll (.scanr r :: (ks.map (fun k => .emitk k.1 k.2) ++ [.dly a.budget]))
      { s with budget := 4000 } = .next b ∧
    outputs (eventsSince s a) = outputs (eventsSince s b) ∧
    a.time = b.time ∧ a.clk = b.clk ∧ a.data = b.data ∧ a.cur = b.cur ∧ a.prev = b.prev ∧
    a.row = b.row ∧ a.strobed = b.strobed ∧ a.budget = b.budget)

/-! ## RUN -/

/-- 42_translator_dispatcher.md R166: RUN enters mode RUN, starts no INIT, takes no time and does not
complete; the rest of its effect is the turns (log 1). That `rsp` keeps its value is the model's choice
(log 24). -/
def Obligations.RunEntersTheLoop : Prop :=
  ∀ s : State, exec .run s = .next { s with mode := .run, inflight := some ⟨.run, s.time, []⟩ }

/-- 42_translator_dispatcher.md R166, 70_reset_and_hazards.md R231: a step in mode RUN is `DROW row_idx` and
then the next row, with no `done` and no response. That `rsp` keeps its value is the model's choice (log 4,
24); one turn a step: log 1. -/
def Obligations.RunTurnIsDrowOfRowIdx : Prop :=
  ∀ s : State, s.mode = .run → AtRest s → s.resets = [] →
    ∃ t u, step s = .next t ∧ exec (.drow s.rowIdx) s = .next u ∧
      t.rowIdx = s.rowIdx + 1 ∧ t.mode = .run ∧ AtRest t ∧ t.rsp = s.rsp ∧
      t.cur = u.cur ∧ t.prev = u.prev ∧ t.row = u.row ∧ t.clk = u.clk ∧ t.data = u.data ∧
      t.budget = u.budget ∧ t.strobed = u.strobed ∧ t.time = u.time ∧
      t.client = s.client ∧ t.samples = u.samples ∧ t.resets = [] ∧
      u.trace = t.trace ++ [⟨t.time, .done⟩] ∧ u.draws = t.draws + 1

/-- 42_translator_dispatcher.md R166, 10_state.md R26: rows are visited round-robin for ever, with no row
skipped or repeated, whatever the keys do; `row_idx` wraps from 7 to 0. One turn a step: log 1. -/
def Obligations.RunIsRoundRobin : Prop :=
  ∀ (k : Nat) (s : State), s.mode = .run → AtRest s → s.resets = [] →
    ∃ t, runFor k s = .next t ∧ t.mode = .run ∧ AtRest t ∧
      t.rowIdx.val = (s.rowIdx.val + k) % 8 ∧ t.client = s.client

/-- 70_reset_and_hazards.md R240 (the spec's own inference, with the default parameters, log 7, and exact
waits, log 8): every round of
eight rows takes at least 32120 µs and at most 95160 µs. -/
def Obligations.RevisitTimeIsBounded : Prop :=
  ∀ s : State, s.mode = .run → AtRest s → s.resets = [] →
    ∃ t, runFor 8 s = .next t ∧ t.rowIdx = s.rowIdx ∧
      s.time + 32120 ≤ t.time ∧ t.time ≤ s.time + 95160

/-- 10_state.md R28, 70_reset_and_hazards.md R230: only reset leaves mode RUN, from any state, and no step
in mode RUN takes a word from the client. -/
def Obligations.OnlyResetLeavesModeRun : Prop :=
  ∀ s t : State, s.mode = .run → step s = .next t →
    t.client = s.client ∧
    (t.mode = .run ∨ ∃ now, t.trace.getLast? = some ⟨now, .reset⟩ ∧ s.resets ≠ [])

/-! ## Parameters -/

/-- 70_reset_and_hazards.md R247 (the spec's own decision D1): with `DELAY_MODE = at_least` an operation
whose sample is given does the same things in the same order as with `exact`, none earlier, and leaves
the same registers. -/
def Obligations.AtLeastChangesOnlyTimes : Prop :=
  ∀ (p : Config.Params) (i : Instr) (s : State), s.samples ≠ [] →
    let a := perform { p with delayMode := .exact } i s
    let b := perform { p with delayMode := .atLeast } i s
    kinds (eventsSince s a) = kinds (eventsSince s b) ∧
    List.Forall₂ (fun x y : Event => x.time ≤ y.time) (eventsSince s a) (eventsSince s b) ∧
    a.time ≤ b.time ∧ a.cur = b.cur ∧ a.prev = b.prev ∧ a.row = b.row ∧ a.clk = b.clk ∧
    a.data = b.data ∧ a.budget = b.budget ∧ a.rowIdx = b.rowIdx ∧ a.mode = b.mode ∧
    a.strobed = b.strobed ∧ a.samples = b.samples

/-- 70_reset_and_hazards.md R246: what a row sends, and every register but the budget, does not depend on
`T_DEDUCT`; only times do. -/
def Obligations.DeductionChangesOnlyTimes : Prop :=
  ∀ (p : Config.Params) (d : Nat) (i : Instr) (s : State),
    let a := perform p i s
    let b := perform { p with tDeduct := d } i s
    kinds (eventsSince s a) = kinds (eventsSince s b) ∧
    a.cur = b.cur ∧ a.prev = b.prev ∧ a.row = b.row ∧ a.clk = b.clk ∧ a.data = b.data ∧
    a.rowIdx = b.rowIdx ∧ a.mode = b.mode ∧ a.strobed = b.strobed ∧ a.samples = b.samples

/-! ## Frames -/

/-- 20_memory.md R55: RCHG, CTRN and XLAT read state and change nothing but the response. -/
def Obligations.ReadsChangeOnlyTheResponse : Prop :=
  ∀ (i : Instr) (s t : State),
    ((∃ r, i = .rchg r) ∨ (∃ r c, i = .ctrn r c) ∨ (∃ r c, i = .xlat r c)) →
    exec i s = .next t → t = { s with rsp := t.rsp, trace := t.trace }

/-- 40_ps2_transmitter.md R101, 42_translator_dispatcher.md R161 to R164: SENDB, MIRB, DLY, EMITB and EMITK
leave the snapshots, the strobes, the row index, the mode and the surroundings; SENDB, MIRB and DLY
leave the budget; MIRB and DLY leave the lines. Each adds to the trace, and the lines are released after each
that sends a byte. -/
def Obligations.SendingLeavesTheScanner : Prop :=
  ∀ (i : Instr) (s t : State),
    ((∃ v, i = .sendb v) ∨ (∃ v, i = .mirb v) ∨ (∃ n, i = .dly n) ∨ (∃ v, i = .emitb v) ∨
      (∃ k code, i = .emitk k code)) →
    exec i s = .next t →
    t = { s with
      clk := t.clk, data := t.data, budget := t.budget, time := t.time, rsp := t.rsp
      trace := t.trace, draws := t.draws } ∧
    s.trace <+: t.trace ∧
    ((∃ v, i = .sendb v) ∨ (∃ v, i = .mirb v) ∨ (∃ n, i = .dly n) → t.budget = s.budget) ∧
    ((∃ v, i = .mirb v) ∨ (∃ n, i = .dly n) → t.clk = s.clk ∧ t.data = s.data) ∧
    ((∃ v, i = .sendb v) ∨ (∃ v, i = .emitb v) ∨ (∃ k code, i = .emitk k code ∧ code ≠ 0) →
      t.clk = true ∧ t.data = true)

/-- 41_matrix_scanner.md R130, R131, 42_translator_dispatcher.md R165, 10_state.md R20, R21: INIT and SCANR
leave the PS/2 lines and the budget; SCANR and DROW touch the snapshots, the strobe and the ghost bit of
their row only; all three leave the row index, the mode, the client and the resets. -/
def Obligations.ScanningTouchesItsRowOnly : Prop :=
  (∀ s t : State, exec .init s = .next t →
    t = { s with
      row := t.row, cur := t.cur, prev := t.prev, strobed := t.strobed, rsp := t.rsp
      trace := t.trace, draws := t.draws }) ∧
  (∀ (r : Row) (s t : State), exec (.scanr r) s = .next t ∨ exec (.drow r) s = .next t →
    t = { s with
      row := t.row, cur := t.cur, prev := t.prev, strobed := t.strobed, clk := t.clk
      data := t.data, budget := t.budget, time := t.time, rsp := t.rsp, samples := t.samples
      trace := t.trace, draws := t.draws } ∧
    (∀ q : Row, q ≠ r → t.row[q] = s.row[q] ∧ t.cur[q] = s.cur[q] ∧ t.prev[q] = s.prev[q] ∧
      t.strobed[q] = s.strobed[q]) ∧
    (exec (.scanr r) s = .next t →
      t.clk = s.clk ∧ t.data = s.data ∧ t.budget = s.budget))

/-! ## Invariants of every step -/

/-- 10_state.md R22, R23, R24, R25, R27, R29: between operations every output latch is released, the
budget is at most 4000, no operation but RUN is in flight, and a row not yet strobed holds its initial
values; every step keeps this, resets included. -/
def Obligations.EveryStepKeepsBetweenOps : Prop :=
  ∀ s t : State, BetweenOps Config.params s → step s = .next t → BetweenOps Config.params t

/-- 00_scope.md R9, 20_memory.md R57: every step keeps the trace a record of the past, in order of time,
that tells the level of every latch. (The trace is the model's: log 13.) -/
def Obligations.EveryStepKeepsTheTraceTrue : Prop :=
  ∀ s t : State, Chronological s → TraceAgrees s → step s = .next t →
    Chronological t ∧ TraceAgrees t

/-- 41_matrix_scanner.md R136 (the spec's own inference): at every primitive and every microsecond at most
one strobe is low, and one is low only while an operation that will release it is in flight; with any
parameters. -/
def Obligations.EveryFineStepKeepsOneStrobeLow : Prop :=
  ∀ (p : Config.Params) (s t : State), StrobeSafe s → s.microStep p = .next t → StrobeSafe t

/-- 10_state.md R27 (the spec's own inference): taking an operation primitive by primitive and microsecond
by microsecond, from its acceptance to its completion, is the atomic step, with any parameters; for the
machine's it is `exec`, and a turn of RUN's loop taken so is the step of mode RUN (R166). -/
def Obligations.FineStepsRefineExec : Prop :=
  (∀ (p : Config.Params) (i : Instr) (s : State), i ≠ .run → s.inflight = none → s.resets = [] →
    ∃ k, State.microRun p k (s.accept p i) = some (perform p i s)) ∧
  (∀ (i : Instr) (s : State), exec i s = .next (perform Config.params i s)) ∧
  (∀ (s : State), s.mode = .run → AtRest s → s.resets = [] →
    ∃ k t, State.microRun Config.params k s = some t ∧ step s = .next t)

/-- 10_state.md R27, 30_encoding.md R73 (the spec's own inference): of a SENDB in flight there is, for
every `d` below 660, a fine state with `d` µs elapsed, and in it the latches are those of slot `d div 60`
and phase `d mod 60`, with exact waits (log 8). -/
def Obligations.FineStepsShowSlotAndPhase : Prop :=
  ∀ (v : Byte) (s : State) (d : Nat), s.inflight = none → s.resets = [] → s.clk = true → d < 660 →
    ∃ k u, State.microRun Config.params k (s.accept Config.params (.sendb v)) = some u ∧
      u.elapsed = some d ∧ u.inflight.map Flight.op = some (.sendb v) ∧
      u.data = (frameBits v).getD (d / 60) true ∧
      u.clk = !(decide (15 ≤ d % 60) && decide (d % 60 < 45))
end

