-- ==== Sys2Proof/Laws/State.lean ====
section
/-! SUPPORT. The small lemmas of the state's updates: one per field per update. -/

namespace Sys2Proof.Machine

open Sys2Proof

/-! ## Banks -/

@[simp] theorem put_getElem {α : Type} (b : Bank α) (r q : Row) (x : α) :
    (put b r x)[q] = if q = r then x else b[q] := by
  simp [put, Vector.getElem_set, Fin.ext_iff, eq_comm]

@[simp] theorem put_getElem_val {α : Type} (b : Bank α) (r q : Row) (x : α) :
    (put b r x)[q.val] = if q = r then x else b[q.val] := put_getElem b r q x

theorem put_self {α : Type} (b : Bank α) (r : Row) : put b r b[r] = b := by
  apply Vector.ext
  intro i hi
  simp only [put, Vector.getElem_set]
  split
  · next h => subst h; rfl
  · rfl


/-! ## emit -/

@[simp] theorem State.emit_cur (s : State) (k : EventKind) : (s.emit k).cur = s.cur := rfl
@[simp] theorem State.emit_prev (s : State) (k : EventKind) : (s.emit k).prev = s.prev := rfl
@[simp] theorem State.emit_row (s : State) (k : EventKind) : (s.emit k).row = s.row := rfl
@[simp] theorem State.emit_clk (s : State) (k : EventKind) : (s.emit k).clk = s.clk := rfl
@[simp] theorem State.emit_data (s : State) (k : EventKind) : (s.emit k).data = s.data := rfl
@[simp] theorem State.emit_budget (s : State) (k : EventKind) : (s.emit k).budget = s.budget := rfl
@[simp] theorem State.emit_rowIdx (s : State) (k : EventKind) : (s.emit k).rowIdx = s.rowIdx := rfl
@[simp] theorem State.emit_inflight (s : State) (k : EventKind) :
    (s.emit k).inflight = s.inflight := rfl
@[simp] theorem State.emit_mode (s : State) (k : EventKind) : (s.emit k).mode = s.mode := rfl
@[simp] theorem State.emit_strobed (s : State) (k : EventKind) :
    (s.emit k).strobed = s.strobed := rfl
@[simp] theorem State.emit_time (s : State) (k : EventKind) : (s.emit k).time = s.time := rfl
@[simp] theorem State.emit_rsp (s : State) (k : EventKind) : (s.emit k).rsp = s.rsp := rfl
@[simp] theorem State.emit_trace (s : State) (k : EventKind) :
    (s.emit k).trace = s.trace ++ [⟨s.time, k⟩] := rfl
@[simp] theorem State.emit_client (s : State) (k : EventKind) : (s.emit k).client = s.client := rfl
@[simp] theorem State.emit_samples (s : State) (k : EventKind) :
    (s.emit k).samples = s.samples := rfl
@[simp] theorem State.emit_resets (s : State) (k : EventKind) : (s.emit k).resets = s.resets := rfl
@[simp] theorem State.emit_draws (s : State) (k : EventKind) : (s.emit k).draws = s.draws := rfl

/-! ## pass -/

@[simp] theorem State.pass_cur (s : State) (n : Nat) : (s.pass n).cur = s.cur := rfl
@[simp] theorem State.pass_prev (s : State) (n : Nat) : (s.pass n).prev = s.prev := rfl
@[simp] theorem State.pass_row (s : State) (n : Nat) : (s.pass n).row = s.row := rfl
@[simp] theorem State.pass_clk (s : State) (n : Nat) : (s.pass n).clk = s.clk := rfl
@[simp] theorem State.pass_data (s : State) (n : Nat) : (s.pass n).data = s.data := rfl
@[simp] theorem State.pass_budget (s : State) (n : Nat) : (s.pass n).budget = s.budget := rfl
@[simp] theorem State.pass_rowIdx (s : State) (n : Nat) : (s.pass n).rowIdx = s.rowIdx := rfl
@[simp] theorem State.pass_inflight (s : State) (n : Nat) : (s.pass n).inflight = s.inflight := rfl
@[simp] theorem State.pass_mode (s : State) (n : Nat) : (s.pass n).mode = s.mode := rfl
@[simp] theorem State.pass_strobed (s : State) (n : Nat) : (s.pass n).strobed = s.strobed := rfl
@[simp] theorem State.pass_time (s : State) (n : Nat) : (s.pass n).time = s.time + n := rfl
@[simp] theorem State.pass_rsp (s : State) (n : Nat) : (s.pass n).rsp = s.rsp := rfl
@[simp] theorem State.pass_trace (s : State) (n : Nat) : (s.pass n).trace = s.trace := rfl
@[simp] theorem State.pass_client (s : State) (n : Nat) : (s.pass n).client = s.client := rfl
@[simp] theorem State.pass_samples (s : State) (n : Nat) : (s.pass n).samples = s.samples := rfl
@[simp] theorem State.pass_resets (s : State) (n : Nat) : (s.pass n).resets = s.resets := rfl
@[simp] theorem State.pass_draws (s : State) (n : Nat) : (s.pass n).draws = s.draws := rfl

/-! ## shiftRow -/

@[simp] theorem State.shiftRow_cur (s : State) (r : Row) (v : RowState) :
    (s.shiftRow r v).cur = put s.cur r v := rfl
@[simp] theorem State.shiftRow_prev (s : State) (r : Row) (v : RowState) :
    (s.shiftRow r v).prev = put s.prev r s.cur[r] := rfl
@[simp] theorem State.shiftRow_row (s : State) (r : Row) (v : RowState) :
    (s.shiftRow r v).row = s.row := rfl
@[simp] theorem State.shiftRow_clk (s : State) (r : Row) (v : RowState) :
    (s.shiftRow r v).clk = s.clk := rfl
@[simp] theorem State.shiftRow_data (s : State) (r : Row) (v : RowState) :
    (s.shiftRow r v).data = s.data := rfl
@[simp] theorem State.shiftRow_budget (s : State) (r : Row) (v : RowState) :
    (s.shiftRow r v).budget = s.budget := rfl
@[simp] theorem State.shiftRow_rowIdx (s : State) (r : Row) (v : RowState) :
    (s.shiftRow r v).rowIdx = s.rowIdx := rfl
@[simp] theorem State.shiftRow_inflight (s : State) (r : Row) (v : RowState) :
    (s.shiftRow r v).inflight = s.inflight := rfl
@[simp] theorem State.shiftRow_mode (s : State) (r : Row) (v : RowState) :
    (s.shiftRow r v).mode = s.mode := rfl
@[simp] theorem State.shiftRow_strobed (s : State) (r : Row) (v : RowState) :
    (s.shiftRow r v).strobed = put s.strobed r true := rfl
@[simp] theorem State.shiftRow_time (s : State) (r : Row) (v : RowState) :
    (s.shiftRow r v).time = s.time := rfl
@[simp] theorem State.shiftRow_rsp (s : State) (r : Row) (v : RowState) :
    (s.shiftRow r v).rsp = s.rsp := rfl
@[simp] theorem State.shiftRow_trace (s : State) (r : Row) (v : RowState) :
    (s.shiftRow r v).trace = s.trace := rfl
@[simp] theorem State.shiftRow_client (s : State) (r : Row) (v : RowState) :
    (s.shiftRow r v).client = s.client := rfl
@[simp] theorem State.shiftRow_samples (s : State) (r : Row) (v : RowState) :
    (s.shiftRow r v).samples = s.samples := rfl
@[simp] theorem State.shiftRow_resets (s : State) (r : Row) (v : RowState) :
    (s.shiftRow r v).resets = s.resets := rfl
@[simp] theorem State.shiftRow_draws (s : State) (r : Row) (v : RowState) :
    (s.shiftRow r v).draws = s.draws := rfl

/-! ## clearRow -/

@[simp] theorem State.clearRow_cur (s : State) (p : Config.Params) (r : Row) :
    (s.clearRow p r).cur = put s.cur r p.curReset := rfl
@[simp] theorem State.clearRow_prev (s : State) (p : Config.Params) (r : Row) :
    (s.clearRow p r).prev = put s.prev r Config.allReleased := rfl
@[simp] theorem State.clearRow_row (s : State) (p : Config.Params) (r : Row) :
    (s.clearRow p r).row = s.row := rfl
@[simp] theorem State.clearRow_clk (s : State) (p : Config.Params) (r : Row) :
    (s.clearRow p r).clk = s.clk := rfl
@[simp] theorem State.clearRow_data (s : State) (p : Config.Params) (r : Row) :
    (s.clearRow p r).data = s.data := rfl
@[simp] theorem State.clearRow_budget (s : State) (p : Config.Params) (r : Row) :
    (s.clearRow p r).budget = s.budget := rfl
@[simp] theorem State.clearRow_rowIdx (s : State) (p : Config.Params) (r : Row) :
    (s.clearRow p r).rowIdx = s.rowIdx := rfl
@[simp] theorem State.clearRow_inflight (s : State) (p : Config.Params) (r : Row) :
    (s.clearRow p r).inflight = s.inflight := rfl
@[simp] theorem State.clearRow_mode (s : State) (p : Config.Params) (r : Row) :
    (s.clearRow p r).mode = s.mode := rfl
@[simp] theorem State.clearRow_strobed (s : State) (p : Config.Params) (r : Row) :
    (s.clearRow p r).strobed = put s.strobed r false := rfl
@[simp] theorem State.clearRow_time (s : State) (p : Config.Params) (r : Row) :
    (s.clearRow p r).time = s.time := rfl
@[simp] theorem State.clearRow_rsp (s : State) (p : Config.Params) (r : Row) :
    (s.clearRow p r).rsp = s.rsp := rfl
@[simp] theorem State.clearRow_trace (s : State) (p : Config.Params) (r : Row) :
    (s.clearRow p r).trace = s.trace := rfl
@[simp] theorem State.clearRow_client (s : State) (p : Config.Params) (r : Row) :
    (s.clearRow p r).client = s.client := rfl
@[simp] theorem State.clearRow_samples (s : State) (p : Config.Params) (r : Row) :
    (s.clearRow p r).samples = s.samples := rfl
@[simp] theorem State.clearRow_resets (s : State) (p : Config.Params) (r : Row) :
    (s.clearRow p r).resets = s.resets := rfl
@[simp] theorem State.clearRow_draws (s : State) (p : Config.Params) (r : Row) :
    (s.clearRow p r).draws = s.draws := rfl

/-! ## loadBudget -/

@[simp] theorem State.loadBudget_cur (s : State) : (s.loadBudget).cur = s.cur := rfl
@[simp] theorem State.loadBudget_prev (s : State) : (s.loadBudget).prev = s.prev := rfl
@[simp] theorem State.loadBudget_row (s : State) : (s.loadBudget).row = s.row := rfl
@[simp] theorem State.loadBudget_clk (s : State) : (s.loadBudget).clk = s.clk := rfl
@[simp] theorem State.loadBudget_data (s : State) : (s.loadBudget).data = s.data := rfl
@[simp] theorem State.loadBudget_budget (s : State) : (s.loadBudget).budget = 4000#12 := rfl
@[simp] theorem State.loadBudget_rowIdx (s : State) : (s.loadBudget).rowIdx = s.rowIdx := rfl
@[simp] theorem State.loadBudget_inflight (s : State) : (s.loadBudget).inflight = s.inflight := rfl
@[simp] theorem State.loadBudget_mode (s : State) : (s.loadBudget).mode = s.mode := rfl
@[simp] theorem State.loadBudget_strobed (s : State) : (s.loadBudget).strobed = s.strobed := rfl
@[simp] theorem State.loadBudget_time (s : State) : (s.loadBudget).time = s.time := rfl
@[simp] theorem State.loadBudget_rsp (s : State) : (s.loadBudget).rsp = s.rsp := rfl
@[simp] theorem State.loadBudget_trace (s : State) : (s.loadBudget).trace = s.trace := rfl
@[simp] theorem State.loadBudget_client (s : State) : (s.loadBudget).client = s.client := rfl
@[simp] theorem State.loadBudget_samples (s : State) : (s.loadBudget).samples = s.samples := rfl
@[simp] theorem State.loadBudget_resets (s : State) : (s.loadBudget).resets = s.resets := rfl
@[simp] theorem State.loadBudget_draws (s : State) : (s.loadBudget).draws = s.draws := rfl

/-! ## charge -/

@[simp] theorem State.charge_cur (s : State) (p : Config.Params) : (s.charge p).cur = s.cur := rfl
@[simp] theorem State.charge_prev (s : State) (p : Config.Params) :
    (s.charge p).prev = s.prev := rfl
@[simp] theorem State.charge_row (s : State) (p : Config.Params) : (s.charge p).row = s.row := rfl
@[simp] theorem State.charge_clk (s : State) (p : Config.Params) : (s.charge p).clk = s.clk := rfl
@[simp] theorem State.charge_data (s : State) (p : Config.Params) :
    (s.charge p).data = s.data := rfl
@[simp] theorem State.charge_budget (s : State) (p : Config.Params) :
    (s.charge p).budget = BitVec.ofNat 12 (s.budget.toNat - min s.budget.toNat p.tDeduct) := rfl
@[simp] theorem State.charge_rowIdx (s : State) (p : Config.Params) :
    (s.charge p).rowIdx = s.rowIdx := rfl
@[simp] theorem State.charge_inflight (s : State) (p : Config.Params) :
    (s.charge p).inflight = s.inflight := rfl
@[simp] theorem State.charge_mode (s : State) (p : Config.Params) :
    (s.charge p).mode = s.mode := rfl
@[simp] theorem State.charge_strobed (s : State) (p : Config.Params) :
    (s.charge p).strobed = s.strobed := rfl
@[simp] theorem State.charge_time (s : State) (p : Config.Params) :
    (s.charge p).time = s.time := rfl
@[simp] theorem State.charge_rsp (s : State) (p : Config.Params) : (s.charge p).rsp = s.rsp := rfl
@[simp] theorem State.charge_trace (s : State) (p : Config.Params) :
    (s.charge p).trace = s.trace := rfl
@[simp] theorem State.charge_client (s : State) (p : Config.Params) :
    (s.charge p).client = s.client := rfl
@[simp] theorem State.charge_samples (s : State) (p : Config.Params) :
    (s.charge p).samples = s.samples := rfl
@[simp] theorem State.charge_resets (s : State) (p : Config.Params) :
    (s.charge p).resets = s.resets := rfl
@[simp] theorem State.charge_draws (s : State) (p : Config.Params) :
    (s.charge p).draws = s.draws := rfl

/-! ## respond -/

@[simp] theorem State.respond_cur (s : State) (v : BitVec 9) : (s.respond v).cur = s.cur := rfl
@[simp] theorem State.respond_prev (s : State) (v : BitVec 9) : (s.respond v).prev = s.prev := rfl
@[simp] theorem State.respond_row (s : State) (v : BitVec 9) : (s.respond v).row = s.row := rfl
@[simp] theorem State.respond_clk (s : State) (v : BitVec 9) : (s.respond v).clk = s.clk := rfl
@[simp] theorem State.respond_data (s : State) (v : BitVec 9) : (s.respond v).data = s.data := rfl
@[simp] theorem State.respond_budget (s : State) (v : BitVec 9) :
    (s.respond v).budget = s.budget := rfl
@[simp] theorem State.respond_rowIdx (s : State) (v : BitVec 9) :
    (s.respond v).rowIdx = s.rowIdx := rfl
@[simp] theorem State.respond_inflight (s : State) (v : BitVec 9) :
    (s.respond v).inflight = s.inflight := rfl
@[simp] theorem State.respond_mode (s : State) (v : BitVec 9) : (s.respond v).mode = s.mode := rfl
@[simp] theorem State.respond_strobed (s : State) (v : BitVec 9) :
    (s.respond v).strobed = s.strobed := rfl
@[simp] theorem State.respond_time (s : State) (v : BitVec 9) : (s.respond v).time = s.time := rfl
@[simp] theorem State.respond_rsp (s : State) (v : BitVec 9) : (s.respond v).rsp = v := rfl
@[simp] theorem State.respond_trace (s : State) (v : BitVec 9) :
    (s.respond v).trace = s.trace ++ [⟨s.time, .rsp v⟩] := rfl
@[simp] theorem State.respond_client (s : State) (v : BitVec 9) :
    (s.respond v).client = s.client := rfl
@[simp] theorem State.respond_samples (s : State) (v : BitVec 9) :
    (s.respond v).samples = s.samples := rfl
@[simp] theorem State.respond_resets (s : State) (v : BitVec 9) :
    (s.respond v).resets = s.resets := rfl
@[simp] theorem State.respond_draws (s : State) (v : BitVec 9) :
    (s.respond v).draws = s.draws := rfl

/-! ## advanceRow -/

@[simp] theorem State.advanceRow_cur (s : State) : (s.advanceRow).cur = s.cur := rfl
@[simp] theorem State.advanceRow_prev (s : State) : (s.advanceRow).prev = s.prev := rfl
@[simp] theorem State.advanceRow_row (s : State) : (s.advanceRow).row = s.row := rfl
@[simp] theorem State.advanceRow_clk (s : State) : (s.advanceRow).clk = s.clk := rfl
@[simp] theorem State.advanceRow_data (s : State) : (s.advanceRow).data = s.data := rfl
@[simp] theorem State.advanceRow_budget (s : State) : (s.advanceRow).budget = s.budget := rfl
@[simp] theorem State.advanceRow_rowIdx (s : State) : (s.advanceRow).rowIdx = s.rowIdx + 1 := rfl
@[simp] theorem State.advanceRow_inflight (s : State) : (s.advanceRow).inflight = s.inflight := rfl
@[simp] theorem State.advanceRow_mode (s : State) : (s.advanceRow).mode = s.mode := rfl
@[simp] theorem State.advanceRow_strobed (s : State) : (s.advanceRow).strobed = s.strobed := rfl
@[simp] theorem State.advanceRow_time (s : State) : (s.advanceRow).time = s.time := rfl
@[simp] theorem State.advanceRow_rsp (s : State) : (s.advanceRow).rsp = s.rsp := rfl
@[simp] theorem State.advanceRow_trace (s : State) : (s.advanceRow).trace = s.trace := rfl
@[simp] theorem State.advanceRow_client (s : State) : (s.advanceRow).client = s.client := rfl
@[simp] theorem State.advanceRow_samples (s : State) : (s.advanceRow).samples = s.samples := rfl
@[simp] theorem State.advanceRow_resets (s : State) : (s.advanceRow).resets = s.resets := rfl
@[simp] theorem State.advanceRow_draws (s : State) : (s.advanceRow).draws = s.draws := rfl

/-! ## finishReply -/

@[simp] theorem State.finishReply_cur (s : State) : (s.finishReply).cur = s.cur := rfl
@[simp] theorem State.finishReply_prev (s : State) : (s.finishReply).prev = s.prev := rfl
@[simp] theorem State.finishReply_row (s : State) : (s.finishReply).row = s.row := rfl
@[simp] theorem State.finishReply_clk (s : State) : (s.finishReply).clk = s.clk := rfl
@[simp] theorem State.finishReply_data (s : State) : (s.finishReply).data = s.data := rfl
@[simp] theorem State.finishReply_budget (s : State) : (s.finishReply).budget = s.budget := rfl
@[simp] theorem State.finishReply_rowIdx (s : State) : (s.finishReply).rowIdx = s.rowIdx := rfl
@[simp] theorem State.finishReply_inflight (s : State) :
    (s.finishReply).inflight = s.inflight := rfl
@[simp] theorem State.finishReply_mode (s : State) : (s.finishReply).mode = s.mode := rfl
@[simp] theorem State.finishReply_strobed (s : State) : (s.finishReply).strobed = s.strobed := rfl
@[simp] theorem State.finishReply_time (s : State) : (s.finishReply).time = s.time := rfl
@[simp] theorem State.finishReply_rsp (s : State) : (s.finishReply).rsp = s.rsp := rfl
@[simp] theorem State.finishReply_trace (s : State) :
    (s.finishReply).trace = s.trace ++ [⟨s.time, .done⟩] := rfl
@[simp] theorem State.finishReply_client (s : State) : (s.finishReply).client = s.client := rfl
@[simp] theorem State.finishReply_samples (s : State) : (s.finishReply).samples = s.samples := rfl
@[simp] theorem State.finishReply_resets (s : State) : (s.finishReply).resets = s.resets := rfl
@[simp] theorem State.finishReply_draws (s : State) : (s.finishReply).draws = s.draws := rfl

/-! ## finishSilent -/

@[simp] theorem State.finishSilent_cur (s : State) : (s.finishSilent).cur = s.cur := rfl
@[simp] theorem State.finishSilent_prev (s : State) : (s.finishSilent).prev = s.prev := rfl
@[simp] theorem State.finishSilent_row (s : State) : (s.finishSilent).row = s.row := rfl
@[simp] theorem State.finishSilent_clk (s : State) : (s.finishSilent).clk = s.clk := rfl
@[simp] theorem State.finishSilent_data (s : State) : (s.finishSilent).data = s.data := rfl
@[simp] theorem State.finishSilent_budget (s : State) : (s.finishSilent).budget = s.budget := rfl
@[simp] theorem State.finishSilent_rowIdx (s : State) : (s.finishSilent).rowIdx = s.rowIdx := rfl
@[simp] theorem State.finishSilent_inflight (s : State) :
    (s.finishSilent).inflight = s.inflight := rfl
@[simp] theorem State.finishSilent_mode (s : State) : (s.finishSilent).mode = s.mode := rfl
@[simp] theorem State.finishSilent_strobed (s : State) : (s.finishSilent).strobed = s.strobed := rfl
@[simp] theorem State.finishSilent_time (s : State) : (s.finishSilent).time = s.time := rfl
@[simp] theorem State.finishSilent_rsp (s : State) :
    (s.finishSilent).rsp = Config.freeResponse s.draws := rfl
@[simp] theorem State.finishSilent_trace (s : State) :
    (s.finishSilent).trace = s.trace ++ [⟨s.time, .done⟩] := rfl
@[simp] theorem State.finishSilent_client (s : State) : (s.finishSilent).client = s.client := rfl
@[simp] theorem State.finishSilent_samples (s : State) : (s.finishSilent).samples = s.samples := rfl
@[simp] theorem State.finishSilent_resets (s : State) : (s.finishSilent).resets = s.resets := rfl
@[simp] theorem State.finishSilent_draws (s : State) : (s.finishSilent).draws = s.draws + 1 := rfl

/-! ## startRun -/

@[simp] theorem State.startRun_cur (s : State) : (s.startRun).cur = s.cur := rfl
@[simp] theorem State.startRun_prev (s : State) : (s.startRun).prev = s.prev := rfl
@[simp] theorem State.startRun_row (s : State) : (s.startRun).row = s.row := rfl
@[simp] theorem State.startRun_clk (s : State) : (s.startRun).clk = s.clk := rfl
@[simp] theorem State.startRun_data (s : State) : (s.startRun).data = s.data := rfl
@[simp] theorem State.startRun_budget (s : State) : (s.startRun).budget = s.budget := rfl
@[simp] theorem State.startRun_rowIdx (s : State) : (s.startRun).rowIdx = s.rowIdx := rfl
@[simp] theorem State.startRun_inflight (s : State) :
    (s.startRun).inflight = some ⟨.run, s.time, []⟩ := rfl
@[simp] theorem State.startRun_mode (s : State) : (s.startRun).mode = Mode.run := rfl
@[simp] theorem State.startRun_strobed (s : State) : (s.startRun).strobed = s.strobed := rfl
@[simp] theorem State.startRun_time (s : State) : (s.startRun).time = s.time := rfl
@[simp] theorem State.startRun_rsp (s : State) : (s.startRun).rsp = s.rsp := rfl
@[simp] theorem State.startRun_trace (s : State) : (s.startRun).trace = s.trace := rfl
@[simp] theorem State.startRun_client (s : State) : (s.startRun).client = s.client := rfl
@[simp] theorem State.startRun_samples (s : State) : (s.startRun).samples = s.samples := rfl
@[simp] theorem State.startRun_resets (s : State) : (s.startRun).resets = s.resets := rfl
@[simp] theorem State.startRun_draws (s : State) : (s.startRun).draws = s.draws := rfl

/-! ## withRest -/

@[simp] theorem State.withRest_cur (s : State) (f : Flight) (as : List Act) :
    (s.withRest f as).cur = s.cur := rfl
@[simp] theorem State.withRest_prev (s : State) (f : Flight) (as : List Act) :
    (s.withRest f as).prev = s.prev := rfl
@[simp] theorem State.withRest_row (s : State) (f : Flight) (as : List Act) :
    (s.withRest f as).row = s.row := rfl
@[simp] theorem State.withRest_clk (s : State) (f : Flight) (as : List Act) :
    (s.withRest f as).clk = s.clk := rfl
@[simp] theorem State.withRest_data (s : State) (f : Flight) (as : List Act) :
    (s.withRest f as).data = s.data := rfl
@[simp] theorem State.withRest_budget (s : State) (f : Flight) (as : List Act) :
    (s.withRest f as).budget = s.budget := rfl
@[simp] theorem State.withRest_rowIdx (s : State) (f : Flight) (as : List Act) :
    (s.withRest f as).rowIdx = s.rowIdx := rfl
@[simp] theorem State.withRest_inflight (s : State) (f : Flight) (as : List Act) :
    (s.withRest f as).inflight = some { f with rest := as } := rfl
@[simp] theorem State.withRest_mode (s : State) (f : Flight) (as : List Act) :
    (s.withRest f as).mode = s.mode := rfl
@[simp] theorem State.withRest_strobed (s : State) (f : Flight) (as : List Act) :
    (s.withRest f as).strobed = s.strobed := rfl
@[simp] theorem State.withRest_time (s : State) (f : Flight) (as : List Act) :
    (s.withRest f as).time = s.time := rfl
@[simp] theorem State.withRest_rsp (s : State) (f : Flight) (as : List Act) :
    (s.withRest f as).rsp = s.rsp := rfl
@[simp] theorem State.withRest_trace (s : State) (f : Flight) (as : List Act) :
    (s.withRest f as).trace = s.trace := rfl
@[simp] theorem State.withRest_client (s : State) (f : Flight) (as : List Act) :
    (s.withRest f as).client = s.client := rfl
@[simp] theorem State.withRest_samples (s : State) (f : Flight) (as : List Act) :
    (s.withRest f as).samples = s.samples := rfl
@[simp] theorem State.withRest_resets (s : State) (f : Flight) (as : List Act) :
    (s.withRest f as).resets = s.resets := rfl
@[simp] theorem State.withRest_draws (s : State) (f : Flight) (as : List Act) :
    (s.withRest f as).draws = s.draws := rfl

/-! ## setLine -/

@[simp] theorem State.setLine_cur (s : State) (l : Line) (v : Level) :
    (s.setLine l v).cur = s.cur := by cases l <;> rfl
@[simp] theorem State.setLine_prev (s : State) (l : Line) (v : Level) :
    (s.setLine l v).prev = s.prev := by cases l <;> rfl
@[simp] theorem State.setLine_budget (s : State) (l : Line) (v : Level) :
    (s.setLine l v).budget = s.budget := by cases l <;> rfl
@[simp] theorem State.setLine_rowIdx (s : State) (l : Line) (v : Level) :
    (s.setLine l v).rowIdx = s.rowIdx := by cases l <;> rfl
@[simp] theorem State.setLine_inflight (s : State) (l : Line) (v : Level) :
    (s.setLine l v).inflight = s.inflight := by cases l <;> rfl
@[simp] theorem State.setLine_mode (s : State) (l : Line) (v : Level) :
    (s.setLine l v).mode = s.mode := by cases l <;> rfl
@[simp] theorem State.setLine_strobed (s : State) (l : Line) (v : Level) :
    (s.setLine l v).strobed = s.strobed := by cases l <;> rfl
@[simp] theorem State.setLine_time (s : State) (l : Line) (v : Level) :
    (s.setLine l v).time = s.time := by cases l <;> rfl
@[simp] theorem State.setLine_rsp (s : State) (l : Line) (v : Level) :
    (s.setLine l v).rsp = s.rsp := by cases l <;> rfl
@[simp] theorem State.setLine_trace (s : State) (l : Line) (v : Level) :
    (s.setLine l v).trace = s.trace ++ [⟨s.time, .setLine l v⟩] := by cases l <;> rfl
@[simp] theorem State.setLine_client (s : State) (l : Line) (v : Level) :
    (s.setLine l v).client = s.client := by cases l <;> rfl
@[simp] theorem State.setLine_samples (s : State) (l : Line) (v : Level) :
    (s.setLine l v).samples = s.samples := by cases l <;> rfl
@[simp] theorem State.setLine_resets (s : State) (l : Line) (v : Level) :
    (s.setLine l v).resets = s.resets := by cases l <;> rfl
@[simp] theorem State.setLine_draws (s : State) (l : Line) (v : Level) :
    (s.setLine l v).draws = s.draws := by cases l <;> rfl
@[simp] theorem State.setLine_clk_row (s : State) (v : Level) :
    (s.setLine .clk v).row = s.row := rfl
@[simp] theorem State.setLine_clk_clk (s : State) (v : Level) :
    (s.setLine .clk v).clk = v := rfl
@[simp] theorem State.setLine_clk_data (s : State) (v : Level) :
    (s.setLine .clk v).data = s.data := rfl
@[simp] theorem State.setLine_data_row (s : State) (v : Level) :
    (s.setLine .data v).row = s.row := rfl
@[simp] theorem State.setLine_data_clk (s : State) (v : Level) :
    (s.setLine .data v).clk = s.clk := rfl
@[simp] theorem State.setLine_data_data (s : State) (v : Level) :
    (s.setLine .data v).data = v := rfl
@[simp] theorem State.setLine_strobe_row (s : State) (r : Row) (v : Level) :
    (s.setLine (.row r) v).row = put s.row r v := rfl
@[simp] theorem State.setLine_strobe_clk (s : State) (r : Row) (v : Level) :
    (s.setLine (.row r) v).clk = s.clk := rfl
@[simp] theorem State.setLine_strobe_data (s : State) (r : Row) (v : Level) :
    (s.setLine (.row r) v).data = s.data := rfl

/-! ## applyReset -/

@[simp] theorem State.applyReset_cur (s : State) (p : Config.Params) (now : Nat) :
    (s.applyReset p now).cur = (State.resetWith p).cur := rfl
@[simp] theorem State.applyReset_prev (s : State) (p : Config.Params) (now : Nat) :
    (s.applyReset p now).prev = (State.resetWith p).prev := rfl
@[simp] theorem State.applyReset_row (s : State) (p : Config.Params) (now : Nat) :
    (s.applyReset p now).row = (State.resetWith p).row := rfl
@[simp] theorem State.applyReset_clk (s : State) (p : Config.Params) (now : Nat) :
    (s.applyReset p now).clk = (State.resetWith p).clk := rfl
@[simp] theorem State.applyReset_data (s : State) (p : Config.Params) (now : Nat) :
    (s.applyReset p now).data = (State.resetWith p).data := rfl
@[simp] theorem State.applyReset_budget (s : State) (p : Config.Params) (now : Nat) :
    (s.applyReset p now).budget = (State.resetWith p).budget := rfl
@[simp] theorem State.applyReset_rowIdx (s : State) (p : Config.Params) (now : Nat) :
    (s.applyReset p now).rowIdx = (State.resetWith p).rowIdx := rfl
@[simp] theorem State.applyReset_inflight (s : State) (p : Config.Params) (now : Nat) :
    (s.applyReset p now).inflight = (State.resetWith p).inflight := rfl
@[simp] theorem State.applyReset_mode (s : State) (p : Config.Params) (now : Nat) :
    (s.applyReset p now).mode = (State.resetWith p).mode := rfl
@[simp] theorem State.applyReset_strobed (s : State) (p : Config.Params) (now : Nat) :
    (s.applyReset p now).strobed = (State.resetWith p).strobed := rfl
@[simp] theorem State.applyReset_time (s : State) (p : Config.Params) (now : Nat) :
    (s.applyReset p now).time = (State.resetWith p).time := rfl
@[simp] theorem State.applyReset_rsp (s : State) (p : Config.Params) (now : Nat) :
    (s.applyReset p now).rsp = (State.resetWith p).rsp := rfl
@[simp] theorem State.applyReset_trace (s : State) (p : Config.Params) (now : Nat) :
    (s.applyReset p now).trace = s.trace ++ [⟨now, .reset⟩] := rfl
@[simp] theorem State.applyReset_client (s : State) (p : Config.Params) (now : Nat) :
    (s.applyReset p now).client = s.client := rfl
@[simp] theorem State.applyReset_samples (s : State) (p : Config.Params) (now : Nat) :
    (s.applyReset p now).samples = s.samples := rfl
@[simp] theorem State.applyReset_resets (s : State) (p : Config.Params) (now : Nat) :
    (s.applyReset p now).resets = s.resets.tail := rfl
@[simp] theorem State.applyReset_draws (s : State) (p : Config.Params) (now : Nat) :
    (s.applyReset p now).draws = s.draws := rfl

end Sys2Proof.Machine
end

