-- ==== Sys2Proof/Laws/Sequencer.lean ====
section
/-! SUPPORT. What the shared operations of the sequencer do, once each: waits, samples, lists of
primitives, a frame, a byte, a key event, a row. -/

namespace Sys2Proof.Machine

open Sys2Proof

variable {p : Config.Params}

/-! ## The machine's parameters -/

theorem params_exact : Config.params.delayMode = .exact := rfl
@[simp] theorem params_tSettle : Config.params.tSettle = 15 := rfl
@[simp] theorem params_tDeduct : Config.params.tDeduct = 660 := rfl
@[simp] theorem params_tMirror : Config.params.tMirror = 0 := rfl
@[simp] theorem params_curReset : Config.params.curReset = 0x3F := rfl
@[simp] theorem params_rowReset : Config.params.rowReset = 0 := rfl
@[simp] theorem params_table : Config.params.table = Config.table := rfl
@[simp] theorem byteTime_params : byteTime Config.params = 660 := rfl

/-! ## Waits and samples -/

/-- With `DELAY_MODE = exact` a wait takes its argument and changes nothing else (R8). -/
theorem wait_exact (h : p.delayMode = .exact) (n : Nat) (s : State) : s.wait p n = s.pass n := by
  simp [State.wait, State.waitTime, h]

/-- A wait takes at least its argument, in either mode (R8). -/
theorem wait_time_le (n : Nat) (s : State) : s.time + n ≤ (s.wait p n).time := by
  unfold State.wait State.waitTime
  cases p.delayMode <;> simp

/-- A wait changes the time and the counter of free values only. -/
theorem wait_eq (n : Nat) (s : State) :
    s.wait p n = { s with time := (s.wait p n).time, draws := (s.wait p n).draws } := by
  unfold State.wait State.waitTime
  cases p.delayMode <;> rfl

/-- A sample is `nextSample`, is seen, and takes one answer of the matrix or one free value (R137). -/
theorem sampleCols_eq (r : Row) (s : State) :
    s.sampleCols r = (s.nextSample,
      { s with
        samples := s.samples.tail
        draws := s.draws + s.sampleDraws
        trace := s.trace ++ [⟨s.time, .sample r s.nextSample⟩] }) := by
  unfold State.sampleCols State.nextSample State.sampleDraws
  rcases h : s.samples with _ | ⟨v, vs⟩ <;> simp [State.emit]

/-- SCANR's work at `t = T_SETTLE` (R131). -/
theorem capture_eq (r : Row) (s : State) :
    s.capture r = { s with
      row := put s.row r true
      prev := put s.prev r s.cur[r]
      cur := put s.cur r s.nextSample
      strobed := put s.strobed r true
      samples := s.samples.tail
      draws := s.draws + s.sampleDraws
      trace := s.trace ++ [⟨s.time, .sample r s.nextSample⟩, ⟨s.time, .setLine (.row r) true⟩] } := by
  simp [State.capture, sampleCols_eq, State.setLine, State.shiftRow, State.emit]

/-! ## Lists of primitives -/

theorem runPrims_append (as bs : List Prim) (s : State) :
    runPrims p (as ++ bs) s = runPrims p bs (runPrims p as s) := by
  induction as generalizing s with
  | nil => rfl
  | cons a as ih => exact ih _

theorem runActs_append (as bs : List Act) (s : State) :
    runActs p (as ++ bs) s = runActs p bs (runActs p as s) := by
  induction as generalizing s with
  | nil => rfl
  | cons a as ih => exact ih _

theorem runActs_map_prim (as : List Prim) (s : State) :
    runActs p (as.map .prim) s = runPrims p as s := by
  induction as generalizing s with
  | nil => rfl
  | cons a as ih => exact ih _

/-- A primitive does not look at `inflight`. -/
theorem Prim.run_inflight (a : Prim) (x : Option Flight) (s : State) :
    a.run p { s with inflight := x } = { a.run p s with inflight := x } := by
  cases a with
  | setLine l v => cases l <;> rfl
  | wait n => unfold Prim.run State.wait State.waitTime; cases p.delayMode <;> rfl
  | waitBudget => unfold Prim.run State.wait State.waitTime; cases p.delayMode <;> rfl
  | capture r => simp only [Prim.run, capture_eq]; rfl
  | _ => rfl

theorem runPrims_inflight (as : List Prim) (x : Option Flight) (s : State) :
    runPrims p as { s with inflight := x } = { runPrims p as s with inflight := x } := by
  induction as generalizing s with
  | nil => rfl
  | cons a as ih => simp only [runPrims, Prim.run_inflight, ih]

theorem Act.run_inflight (a : Act) (x : Option Flight) (s : State) :
    a.run p { s with inflight := x } = { a.run p s with inflight := x } := by
  cases a with
  | prim a => exact a.run_inflight x s
  | columns r => exact runPrims_inflight _ x s

/-- Acts do not look at `inflight`. -/
theorem runActs_inflight (as : List Act) (x : Option Flight) (s : State) :
    runActs p as { s with inflight := x } = { runActs p as s with inflight := x } := by
  induction as generalizing s with
  | nil => rfl
  | cons a as ih => simp only [runActs, Act.run_inflight, ih]

/-- A primitive does not look at the client. -/
theorem Prim.run_client (a : Prim) (x : List Request) (s : State) :
    a.run p { s with client := x } = { a.run p s with client := x } := by
  cases a with
  | setLine l v => cases l <;> rfl
  | wait n => unfold Prim.run State.wait State.waitTime; cases p.delayMode <;> rfl
  | waitBudget => unfold Prim.run State.wait State.waitTime; cases p.delayMode <;> rfl
  | capture r => simp only [Prim.run, capture_eq]; rfl
  | _ => rfl

theorem runPrims_client (as : List Prim) (x : List Request) (s : State) :
    runPrims p as { s with client := x } = { runPrims p as s with client := x } := by
  induction as generalizing s with
  | nil => rfl
  | cons a as ih => simp only [runPrims, Prim.run_client, ih]

/-- Acts do not look at the client (R79, R233). -/
theorem runActs_client (as : List Act) (x : List Request) (s : State) :
    runActs p as { s with client := x } = { runActs p as s with client := x } := by
  induction as generalizing s with
  | nil => rfl
  | cons a as ih =>
    have h : a.run p { s with client := x } = { a.run p s with client := x } := by
      cases a with
      | prim a => exact a.run_client x s
      | columns r => exact runPrims_client _ x s
    simp only [runActs, h, ih]

/-- No primitive touches `inflight`, `mode`, the client or the resets to come. -/
theorem Prim.run_keeps (a : Prim) (s : State) :
    (a.run p s).inflight = s.inflight ∧ (a.run p s).mode = s.mode ∧
      (a.run p s).client = s.client ∧ (a.run p s).resets = s.resets := by
  cases a with
  | setLine l v => simp [Prim.run]
  | wait n => rw [Prim.run, wait_eq]; exact ⟨rfl, rfl, rfl, rfl⟩
  | waitBudget => rw [Prim.run, wait_eq]; exact ⟨rfl, rfl, rfl, rfl⟩
  | capture r => simp [Prim.run, capture_eq]
  | _ => exact ⟨rfl, rfl, rfl, rfl⟩

theorem runPrims_keeps (as : List Prim) (s : State) :
    (runPrims p as s).inflight = s.inflight ∧ (runPrims p as s).mode = s.mode ∧
      (runPrims p as s).client = s.client ∧ (runPrims p as s).resets = s.resets := by
  induction as generalizing s with
  | nil => exact ⟨rfl, rfl, rfl, rfl⟩
  | cons a as ih =>
    obtain ⟨h1, h2, h3, h4⟩ := ih (a.run p s)
    obtain ⟨g1, g2, g3, g4⟩ := a.run_keeps (p := p) s
    exact ⟨h1.trans g1, h2.trans g2, h3.trans g3, h4.trans g4⟩

/-- No act touches `inflight`, `mode`, the client or the resets to come. -/
theorem runActs_keeps (as : List Act) (s : State) :
    (runActs p as s).inflight = s.inflight ∧ (runActs p as s).mode = s.mode ∧
      (runActs p as s).client = s.client ∧ (runActs p as s).resets = s.resets := by
  induction as generalizing s with
  | nil => exact ⟨rfl, rfl, rfl, rfl⟩
  | cons a as ih =>
    obtain ⟨h1, h2, h3, h4⟩ := ih (a.run p s)
    have g : (a.run p s).inflight = s.inflight ∧ (a.run p s).mode = s.mode ∧
        (a.run p s).client = s.client ∧ (a.run p s).resets = s.resets := by
      cases a with
      | prim a => exact a.run_keeps s
      | columns r => exact runPrims_keeps _ s
    exact ⟨h1.trans g.1, h2.trans g.2.1, h3.trans g.2.2.1, h4.trans g.2.2.2⟩

/-! ## A frame, bytes, a key event -/

/-- One slot of a frame (R73), with exact waits. -/
theorem runPrims_slot (h : p.delayMode = .exact) (b : Level) (s : State) :
    runPrims p (scriptSlot b) s = { s with
      clk := true, data := b, time := s.time + 60
      trace := s.trace ++ [⟨s.time, .setLine .data b⟩, ⟨s.time + 15, .setLine .clk false⟩,
        ⟨s.time + 45, .setLine .clk true⟩] } := by
  simp [scriptSlot, runPrims, Prim.run, wait_exact h, State.setLine, State.emit, State.pass,
    Config.tSetup, Config.tLow, Config.tHold, Nat.add_assoc]

/-- SENDB's primitives (R101), with exact waits: the frame's events, 660 µs, both lines released. -/
theorem runPrims_sendb (h : p.delayMode = .exact) (v : Byte) (s : State) :
    runPrims p (scriptSendb v) s = { s with
      clk := true, data := true, time := s.time + 660
      trace := s.trace ++ frameEvents s.time v } := by
  simp [scriptSendb, frameBits, runPrims_append, runPrims_slot h, frameEvents, List.range_succ,
    Nat.add_assoc]

theorem budgetAfter_one (b : BitVec 12) :
    budgetAfter p b 1 = BitVec.ofNat 12 (b.toNat - min b.toNat p.tDeduct) := by
  simp [budgetAfter]

/-- Deductions add up (R168). -/
theorem budgetAfter_add (b : BitVec 12) (m n : Nat) :
    budgetAfter p (budgetAfter p b m) n = budgetAfter p b (m + n) := by
  have hb := b.isLt
  simp only [budgetAfter, BitVec.toNat_ofNat, Nat.add_mul]
  rw [Nat.mod_eq_of_lt (by omega)]
  congr 1
  omega

/-- EMITB's primitives (R163), with exact waits. -/
theorem runPrims_emitb (h : p.delayMode = .exact) (v : Byte) (s : State) :
    runPrims p (scriptEmitb p v) s = { s with
      clk := true, data := true, time := s.time + byteTime p
      budget := budgetAfter p s.budget 1
      trace := s.trace ++ bytesEvents p s.time [v] } := by
  simp [scriptEmitb, runPrims_append, runPrims_sendb h, scriptMirb, runPrims, Prim.run,
    wait_exact h, State.emit, State.pass, State.charge, byteTime, bytesEvents, budgetAfter,
    Nat.add_assoc]

theorem bytesEvents_append (t : Nat) (us vs : List Byte) :
    bytesEvents p t (us ++ vs) =
      bytesEvents p t us ++ bytesEvents p (t + us.length * byteTime p) vs := by
  induction us generalizing t with
  | nil => simp [bytesEvents]
  | cons u us ih =>
    simp only [List.cons_append, bytesEvents, ih, List.append_assoc, List.length_cons, Nat.add_mul,
      Nat.one_mul, Nat.add_assoc, Nat.add_comm (byteTime p)]

theorem budgetAfter_zero (b : BitVec 12) : budgetAfter p b 0 = b := by simp [budgetAfter]

/-- EMITBs one after another, with exact waits (R163, R164): any number of them. -/
theorem runPrims_bytes (h : p.delayMode = .exact) (vs : List Byte) (s : State) :
    runPrims p (vs.flatMap (scriptEmitb p)) s = { s with
      clk := if vs.length = 0 then s.clk else true
      data := if vs.length = 0 then s.data else true
      time := s.time + vs.length * byteTime p
      budget := budgetAfter p s.budget vs.length
      trace := s.trace ++ bytesEvents p s.time vs } := by
  induction vs generalizing s with
  | nil => simp [runPrims, bytesEvents, budgetAfter_zero]
  | cons v vs ih =>
    rw [List.flatMap_cons, runPrims_append, runPrims_emitb h, ih]
    simp only [budgetAfter_add, bytesEvents, List.length_cons, List.append_assoc,
      List.cons_append, List.nil_append, Nat.add_mul, Nat.one_mul, Nat.add_assoc,
      State.mk.injEq, true_and, and_true, Nat.add_eq_zero_iff, one_ne_zero, and_false, if_false,
      ite_self]
    exact ⟨by congr 1; omega, by omega⟩

/-! ## A row -/

theorem scriptColumns_eq (r : Row) (prev cur : RowState) :
    scriptColumns p r prev cur =
      (keyEvents p r prev cur).flatMap (fun k => .ind k.1 :: scriptEmitk p k.1 k.2) := by
  have hcol : ∀ c : Col, scriptColumn p r c (transition prev cur c) =
      ((if prev.getLsbD c.val = true ∧ cur.getLsbD c.val = false then
          some (Edge.pressed, p.table r c)
        else if prev.getLsbD c.val = false ∧ cur.getLsbD c.val = true then
          some (Edge.released, p.table r c)
        else none).toList).flatMap (fun k => .ind k.1 :: scriptEmitk p k.1 k.2) := by
    intro c
    unfold scriptColumn transition edge
    cases prev.getLsbD c.val <;> cases cur.getLsbD c.val <;> simp [transitionEdge]
  have hmap : ∀ (cs : List Col) (f : Col → Option (Edge × Code)),
      cs.flatMap (fun c => (f c).toList.flatMap (fun k => .ind k.1 :: scriptEmitk p k.1 k.2)) =
        (cs.filterMap f).flatMap (fun k => .ind k.1 :: scriptEmitk p k.1 k.2) := by
    intro cs f
    induction cs with
    | nil => rfl
    | cons c cs ih =>
      rw [List.flatMap_cons, ih]
      cases h : f c <;> simp [h]
  unfold scriptColumns keyEvents
  split
  · simp only [hcol]
    exact hmap _ _
  · next h =>
    have he : cur = prev := by simpa [changed] using h
    subst he
    have hn : ∀ c ∈ ([0, 1, 2, 3, 4, 5] : List Col),
        (if cur.getLsbD c.val = true ∧ cur.getLsbD c.val = false then
          some (Edge.pressed, p.table r c)
        else if cur.getLsbD c.val = false ∧ cur.getLsbD c.val = true then
          some (Edge.released, p.table r c)
        else none) = none := by
      intro c _
      cases cur.getLsbD c.val <;> simp
    rw [List.filterMap_eq_nil_iff.mpr hn]
    rfl

/-- The key events of a row (R165 step 3), with exact waits. -/
theorem runPrims_keyEvents (h : p.delayMode = .exact) (ks : List (Edge × Code)) (s : State) :
    runPrims p (ks.flatMap (fun k => .ind k.1 :: scriptEmitk p k.1 k.2)) s = { s with
      clk := if (keyEventsBytes ks).length = 0 then s.clk else true
      data := if (keyEventsBytes ks).length = 0 then s.data else true
      time := s.time + (keyEventsBytes ks).length * byteTime p
      budget := budgetAfter p s.budget (keyEventsBytes ks).length
      trace := s.trace ++ keyEventsTrace p s.time ks } := by
  induction ks generalizing s with
  | nil => simp [runPrims, keyEventsBytes, keyEventsTrace, budgetAfter_zero]
  | cons k ks ih =>
    rw [List.flatMap_cons, runPrims_append]
    simp only [runPrims, Prim.run]
    rw [scriptEmitk, runPrims_bytes h, ih]
    simp only [State.emit, keyEventsBytes, keyEventsTrace, List.flatMap_cons, List.length_append,
      Nat.add_mul, budgetAfter_add, List.append_assoc, List.cons_append, List.nil_append,
      Nat.add_assoc, State.mk.injEq, true_and, and_true]
    simp only [Nat.add_eq_zero_iff]
    constructor <;> split_ifs <;> simp_all

/-- DROW's acts (R165), with exact waits: the sample, the key events of the row, the wait for what is
left of the budget. -/
theorem runActs_drow (h : p.delayMode = .exact) (r : Row) (s : State) :
    runActs p (scriptDrow p r) s =
      let ks := keyEvents p r s.cur[r] s.nextSample
      let n := (keyEventsBytes ks).length
      { s with
        row := put s.row r true
        prev := put s.prev r s.cur[r]
        cur := put s.cur r s.nextSample
        strobed := put s.strobed r true
        samples := s.samples.tail
        draws := s.draws + s.sampleDraws
        clk := if n = 0 then s.clk else true
        data := if n = 0 then s.data else true
        budget := budgetAfter p 4000 n
        time := s.time + p.tSettle + n * byteTime p + (budgetAfter p 4000 n).toNat
        trace := s.trace ++
          ([⟨s.time, .setLine (.row r) false⟩,
            ⟨s.time + p.tSettle, .sample r s.nextSample⟩,
            ⟨s.time + p.tSettle, .setLine (.row r) true⟩] ++
            keyEventsTrace p (s.time + p.tSettle) ks) } := by
  have hput : ∀ b : Bank Level, put (put b r false) r true = put b r true := by
    intro b; simp [put]
  simp only [scriptDrow, scriptScanr, List.map_cons, List.map_nil, List.cons_append,
    List.nil_append, runActs, Act.run, Prim.run, wait_exact h, capture_eq, State.columnPrims,
    scriptColumns_eq]
  rw [runPrims_keyEvents h]
  simp [State.pass, State.setLine, State.emit, State.loadBudget, State.nextSample,
    State.sampleDraws, hput, Config.tBudget]

/-- What a turn of RUN's loop does after the row: the next row (R166). -/
theorem runActs_turn (r : Row) (s : State) :
    runActs p (scriptTurn p r) s = (runActs p (scriptDrow p r) s).advanceRow := by
  rw [scriptTurn, runActs_append]
  rfl

/-! ## Operations -/

/-- Every operation has its meaning, and it is `perform` with the parameters of the machine. -/
theorem exec_eq_perform (i : Instr) (s : State) : exec i s = .next (perform Config.params i s) := by
  cases i <;> rfl

/-- A step with no rst to come (R7): the next operation whole. -/
theorem step_undisturbed (s : State) (h : s.resets = []) :
    step s = s.undisturbed Config.params exec := by
  simp [step, State.stepBy, h]

end Sys2Proof.Machine
end

