-- ==== Sys2Proof/Laws/Events.lean ====
section
/-! SUPPORT. What an operation adds to the trace and when, whole or cut short (20_memory.md R57,
70_reset_and_hazards.md R243), and that none looks at the resets to come. -/

namespace Sys2Proof.Machine

open Sys2Proof

variable {p : Config.Params}

/-! ## Events of whole operations -/

/-- A primitive adds events of the microsecond in which it begins, and time does not run back. -/
theorem Prim.run_events (a : Prim) (s : State) :
    ∃ es, (a.run p s).trace = s.trace ++ es ∧ (∀ e ∈ es, e.time = s.time) ∧
      s.time ≤ (a.run p s).time := by
  cases a with
  | setLine l v => exact ⟨[⟨s.time, .setLine l v⟩], by cases l <;> rfl, by simp, by cases l <;> exact le_rfl⟩
  | wait n => exact ⟨[], by rw [run, wait_eq]; simp, by simp, (s.time.le_add_right n).trans (wait_time_le n s)⟩
  | waitBudget =>
    exact ⟨[], by rw [run, wait_eq]; simp, by simp, (s.time.le_add_right _).trans (wait_time_le _ s)⟩
  | delay n => exact ⟨[], by simp [run], by simp, by simp [run]⟩
  | capture r =>
    refine ⟨[⟨s.time, .sample r s.nextSample⟩, ⟨s.time, .setLine (.row r) true⟩], ?_, ?_, ?_⟩ <;>
      simp [run, capture_eq]
  | clearRow r => exact ⟨[], (List.append_nil _).symm, by simp, le_rfl⟩
  | loadBudget => exact ⟨[], (List.append_nil _).symm, by simp, le_rfl⟩
  | charge => exact ⟨[], (List.append_nil _).symm, by simp, le_rfl⟩
  | nextRow => exact ⟨[], (List.append_nil _).symm, by simp, le_rfl⟩
  | _ => exact ⟨[_], rfl, by simp, le_rfl⟩

/-- Primitives one after another add events between their start and their end. -/
theorem runPrims_events (as : List Prim) (s : State) :
    ∃ es, (runPrims p as s).trace = s.trace ++ es ∧
      (∀ e ∈ es, s.time ≤ e.time ∧ e.time ≤ (runPrims p as s).time) ∧
      s.time ≤ (runPrims p as s).time := by
  induction as generalizing s with
  | nil => exact ⟨[], by simp [runPrims], by simp, le_rfl⟩
  | cons a as ih =>
    obtain ⟨e1, h1, g1, l1⟩ := a.run_events (p := p) s
    obtain ⟨e2, h2, g2, l2⟩ := ih (a.run p s)
    refine ⟨e1 ++ e2, by rw [runPrims, h2, h1, List.append_assoc], fun e he => ?_, l1.trans l2⟩
    rw [runPrims]
    rcases List.mem_append.1 he with h | h
    · have := g1 e h; omega
    · have := g2 e h; omega

/-- Acts one after another add events between their start and their end. -/
theorem runActs_events (as : List Act) (s : State) :
    ∃ es, (runActs p as s).trace = s.trace ++ es ∧
      (∀ e ∈ es, s.time ≤ e.time ∧ e.time ≤ (runActs p as s).time) ∧
      s.time ≤ (runActs p as s).time := by
  induction as generalizing s with
  | nil => exact ⟨[], by simp [runActs], by simp, le_rfl⟩
  | cons a as ih =>
    obtain ⟨e1, h1, g1, l1⟩ : ∃ es, (a.run p s).trace = s.trace ++ es ∧
        (∀ e ∈ es, s.time ≤ e.time ∧ e.time ≤ (a.run p s).time) ∧ s.time ≤ (a.run p s).time := by
      cases a with
      | prim a => exact runPrims_events [a] s
      | columns r => exact runPrims_events _ s
    obtain ⟨e2, h2, g2, l2⟩ := ih (a.run p s)
    refine ⟨e1 ++ e2, by rw [runActs, h2, h1, List.append_assoc], fun e he => ?_, l1.trans l2⟩
    rw [runActs]
    rcases List.mem_append.1 he with h | h
    · have := g1 e h; omega
    · have := g2 e h; omega

/-- A completion takes no time, and touches neither the client nor the resets to come. -/
theorem complete_events (i : Instr) (s : State) :
    ∃ es, (complete i s).trace = s.trace ++ es ∧ (∀ e ∈ es, e.time = s.time) ∧
      (complete i s).time = s.time ∧ (complete i s).client = s.client ∧
      (complete i s).resets = s.resets := by
  cases i with
  | run => exact ⟨[], (List.append_nil _).symm, by simp, rfl, rfl, rfl⟩
  | _ => exact ⟨[⟨s.time, .done⟩], rfl, by simp, rfl, rfl, rfl⟩

/-- An operation other than RUN is its acts and its completion. -/
theorem perform_eq {i : Instr} (h : i ≠ .run) (s : State) :
    perform p i s = complete i (runActs p (script p i) s) := by
  cases i <;> first | rfl | exact absurd rfl h

/-- No operation touches the client or the resets to come. -/
theorem perform_keeps (i : Instr) (s : State) :
    (perform p i s).client = s.client ∧ (perform p i s).resets = s.resets := by
  by_cases h : i = .run
  · subst h; exact ⟨rfl, rfl⟩
  · obtain ⟨_, _, _, _, hc, hr⟩ := complete_events i (runActs p (script p i) s)
    obtain ⟨_, _, kc, kr⟩ := runActs_keeps (p := p) (script p i) s
    rw [perform_eq h]
    exact ⟨hc.trans kc, hr.trans kr⟩

/-! ## No operation looks at the resets to come -/

theorem Prim.run_resets (a : Prim) (x : List Nat) (s : State) :
    a.run p { s with resets := x } = { a.run p s with resets := x } := by
  cases a with
  | setLine l v => cases l <;> rfl
  | wait n => unfold Prim.run State.wait State.waitTime; cases p.delayMode <;> rfl
  | waitBudget => unfold Prim.run State.wait State.waitTime; cases p.delayMode <;> rfl
  | capture r => simp only [Prim.run, capture_eq]; rfl
  | _ => rfl

theorem runPrims_resets (as : List Prim) (x : List Nat) (s : State) :
    runPrims p as { s with resets := x } = { runPrims p as s with resets := x } := by
  induction as generalizing s with
  | nil => rfl
  | cons a as ih => simp only [runPrims, Prim.run_resets, ih]

theorem runActs_resets (as : List Act) (x : List Nat) (s : State) :
    runActs p as { s with resets := x } = { runActs p as s with resets := x } := by
  induction as generalizing s with
  | nil => rfl
  | cons a as ih =>
    have h : a.run p { s with resets := x } = { a.run p s with resets := x } := by
      cases a with
      | prim a => exact a.run_resets x s
      | columns r => exact runPrims_resets _ x s
    simp only [runActs, h, ih]

theorem complete_resets (i : Instr) (x : List Nat) (s : State) :
    complete i { s with resets := x } = { complete i s with resets := x } := by cases i <;> rfl

theorem perform_resets (i : Instr) (x : List Nat) (s : State) :
    perform p i { s with resets := x } = { perform p i s with resets := x } := by
  by_cases h : i = .run
  · subst h; rfl
  · rw [perform_eq h, perform_eq h, runActs_resets, complete_resets]

/-! ## Operations cut short -/

theorem filter_time_eq_nil {t : Nat} {es : List Event} (h : ∀ e ∈ es, t ≤ e.time) :
    es.filter (·.time < t) = [] := by
  simpa [List.filter_eq_nil_iff] using h

theorem filter_time_eq_self {t : Nat} {es : List Event} (h : ∀ e ∈ es, e.time < t) :
    es.filter (·.time < t) = es := by
  simpa [List.filter_eq_self] using h

/-- Primitives cut at `t` add of their events those before `t`; they are whole if they end before `t`. -/
theorem runPrimsUntil_events (t : Nat) (as : List Prim) (s : State) (hs : s.time < t) :
    ∃ es, (runPrims p as s).trace = s.trace ++ es ∧
      (runPrimsUntil p t as s).trace = s.trace ++ es.filter (·.time < t) ∧
      ((runPrimsUntil p t as s).time < t → runPrimsUntil p t as s = runPrims p as s) ∧
      (runPrimsUntil p t as s).time ≤ (runPrims p as s).time := by
  induction as generalizing s with
  | nil => exact ⟨[], by simp [runPrims], by simp [runPrimsUntil], fun _ => rfl, le_rfl⟩
  | cons a as ih =>
    obtain ⟨e1, h1, g1, l1⟩ := a.run_events (p := p) s
    have f1 : e1.filter (·.time < t) = e1 :=
      filter_time_eq_self (fun e he => by have := g1 e he; omega)
    simp only [runPrims, runPrimsUntil, if_neg (show ¬ t ≤ s.time by omega)]
    by_cases hb : (a.run p s).time < t
    · obtain ⟨es, k1, k2, k3, k4⟩ := ih _ hb
      exact ⟨e1 ++ es, by simp [k1, h1], by simp [k2, h1, f1], k3, k4⟩
    · obtain ⟨e2, h2, g2, l2⟩ := runPrims_events (p := p) as (a.run p s)
      have stop : runPrimsUntil p t as (a.run p s) = a.run p s := by
        cases as with
        | nil => rfl
        | cons b bs => rw [runPrimsUntil, if_pos (by omega)]
      rw [stop]
      refine ⟨e1 ++ e2, by simp [h2, h1], ?_, by omega, l2⟩
      rw [List.filter_append, f1, filter_time_eq_nil (fun e he => by have := g2 e he; omega),
        List.append_nil, h1]

/-- Acts cut at `t` add of their events those before `t` (R202, R243). -/
theorem runActsUntil_events (t : Nat) (as : List Act) (s : State) (hs : s.time < t) :
    ∃ es, (runActs p as s).trace = s.trace ++ es ∧
      (runActsUntil p t as s).trace = s.trace ++ es.filter (·.time < t) := by
  induction as generalizing s with
  | nil => exact ⟨[], by simp [runActs], by simp [runActsUntil]⟩
  | cons a as ih =>
    obtain ⟨u, hu, e1, h1, h2, h3, h4⟩ : ∃ u, runActsUntil p t (a :: as) s = runActsUntil p t as u ∧
        ∃ es, (a.run p s).trace = s.trace ++ es ∧ u.trace = s.trace ++ es.filter (·.time < t) ∧
          (u.time < t → u = a.run p s) ∧ u.time ≤ (a.run p s).time := by
      cases a with
      | prim q =>
        obtain ⟨e, h, g, _⟩ := q.run_events (p := p) s
        refine ⟨q.run p s, by simp only [runActsUntil, if_neg (show ¬ t ≤ s.time by omega)],
          e, h, ?_, fun _ => rfl, le_rfl⟩
        rw [filter_time_eq_self (fun x hx => by have := g x hx; omega), h]
      | columns r =>
        exact ⟨_, by simp only [runActsUntil, if_neg (show ¬ t ≤ s.time by omega)],
          runPrimsUntil_events t _ s hs⟩
    rw [hu]
    by_cases hb : u.time < t
    · obtain ⟨e2, k1, k2⟩ := ih u hb
      refine ⟨e1 ++ e2, ?_, ?_⟩
      · rw [runActs, ← h3 hb, k1, h3 hb, h1, List.append_assoc]
      · rw [k2, h2, List.filter_append, List.append_assoc]
    · obtain ⟨e2, k, g, _⟩ := runActs_events (p := p) as (a.run p s)
      have stop : runActsUntil p t as u = u := by
        cases as with
        | nil => rfl
        | cons b bs => cases b <;> rw [runActsUntil, if_pos (by omega)]
      refine ⟨e1 ++ e2, by rw [runActs, k, h1, List.append_assoc], ?_⟩
      rw [stop, h2, List.filter_append,
        filter_time_eq_nil (es := e2) (fun e he => by have := g e he; omega), List.append_nil]

/-- Acts cut short touch neither the client nor the resets to come. -/
theorem runActsUntil_keeps (t : Nat) (as : List Act) (s : State) :
    (runActsUntil p t as s).client = s.client ∧ (runActsUntil p t as s).resets = s.resets := by
  have prims : ∀ (as : List Prim) (s : State), (runPrimsUntil p t as s).client = s.client ∧
      (runPrimsUntil p t as s).resets = s.resets := by
    intro as
    induction as with
    | nil => exact fun _ => ⟨rfl, rfl⟩
    | cons a as ih =>
      intro s
      obtain ⟨_, _, hc, hr⟩ := a.run_keeps (p := p) s
      rw [runPrimsUntil]
      split
      · exact ⟨rfl, rfl⟩
      · exact ⟨(ih _).1.trans hc, (ih _).2.trans hr⟩
  induction as generalizing s with
  | nil => exact ⟨rfl, rfl⟩
  | cons a as ih =>
    cases a with
    | prim q =>
      obtain ⟨_, _, hc, hr⟩ := q.run_keeps (p := p) s
      rw [runActsUntil]
      split
      · exact ⟨rfl, rfl⟩
      · exact ⟨(ih _).1.trans hc, (ih _).2.trans hr⟩
    | columns r =>
      rw [runActsUntil]
      split
      · exact ⟨rfl, rfl⟩
      · exact ⟨(ih _).1.trans (prims _ _).1, (ih _).2.trans (prims _ _).2⟩

end Sys2Proof.Machine
end

