-- ==== Sys2Proof/Laws/PerInstr.lean ====
section
/-! SUPPORT. A statement for every instruction as syntax: its command word is of the row of
30_encoding.md R80 that has its mnemonic. -/

namespace Sys2Proof.Laws.EncodingRow

open Sys2Proof

/-- The word of `i` is of the row of R80 that has the mnemonic of `i`. -/
def Statement (i : Instr) : Prop :=
  ∃ e ∈ encodingTable, e.mnemonic = i.mnemonic ∧ e.accepts (encode i) = true

theorem init : Statement .init := ⟨⟨"INIT", 0x0000, 0xFFFF, false⟩, by decide, rfl, by decide⟩

theorem scanr (r : Row) : Statement (.scanr r) :=
  ⟨⟨"SCANR", 0x1000, 0xFFF8, false⟩, by decide, rfl, by revert r; decide⟩

theorem rchg (r : Row) : Statement (.rchg r) :=
  ⟨⟨"RCHG", 0x2000, 0xFFF8, false⟩, by decide, rfl, by revert r; decide⟩

theorem ctrn (r : Row) (c : Col) : Statement (.ctrn r c) :=
  ⟨⟨"CTRN", 0x3000, 0xFFC0, true⟩, by decide, rfl, by revert r c; decide⟩

theorem xlat (r : Row) (c : Col) : Statement (.xlat r c) :=
  ⟨⟨"XLAT", 0x4000, 0xFFC0, true⟩, by decide, rfl, by revert r c; decide⟩

/-- The bits above a byte field are those of the pattern. -/
theorem byteWord_and (op : Word) (v : Byte) :
    (op ||| v.setWidth 16) &&& 0xFF00 = op &&& 0xFF00 := by
  apply BitVec.eq_of_getLsbD_eq
  intro i hi
  interval_cases i <;> simp

theorem sendb (v : Byte) : Statement (.sendb v) :=
  ⟨⟨"SENDB", 0x5000, 0xFF00, false⟩, by decide, rfl, by
    simp only [EncRow.accepts, encode, byteWord_and]; rfl⟩

theorem mirb (v : Byte) : Statement (.mirb v) :=
  ⟨⟨"MIRB", 0x6000, 0xFF00, false⟩, by decide, rfl, by
    simp only [EncRow.accepts, encode, byteWord_and]; rfl⟩

theorem dly (n : BitVec 12) : Statement (.dly n) := by
  refine ⟨⟨"DLY", 0x7000, 0xF000, false⟩, by decide, rfl, ?_⟩
  have h : ((0x7000 ||| n.setWidth 16 : Word) &&& 0xF000) = 0x7000 := by
    apply BitVec.eq_of_getLsbD_eq
    intro i hi
    interval_cases i <;> simp
  simp only [EncRow.accepts, encode, h]
  rfl

theorem emitb (v : Byte) : Statement (.emitb v) :=
  ⟨⟨"EMITB", 0x8000, 0xFF00, false⟩, by decide, rfl, by
    simp only [EncRow.accepts, encode, byteWord_and]; rfl⟩

theorem emitk (k : Edge) (code : Code) : Statement (.emitk k code) := by
  refine ⟨⟨"EMITK", 0x9000, 0xFC00, false⟩, by decide, rfl, ?_⟩
  have h : ((0x9000 ||| k.bits ||| code.setWidth 16 : Word) &&& 0xFC00) = 0x9000 := by
    apply BitVec.eq_of_getLsbD_eq
    intro i hi
    cases k <;> interval_cases i <;> simp [Edge.bits]
  simp only [EncRow.accepts, encode, h]
  rfl

theorem drow (r : Row) : Statement (.drow r) :=
  ⟨⟨"DROW", 0xA000, 0xFFF8, false⟩, by decide, rfl, by revert r; decide⟩

theorem run : Statement .run := ⟨⟨"RUN", 0xB000, 0xFFFF, false⟩, by decide, rfl, by decide⟩

end Sys2Proof.Laws.EncodingRow
end

