-- ==== Sys2Proof/Laws/Step.lean ====
section
/-! SUPPORT. What a step can do: the one inversion lemma of `step`, from which claims about every step are
derived, and the step in each of the cases of `State.work`. -/

namespace Sys2Proof.Machine

open Sys2Proof

/-- A ready port (R79): nothing in flight, and mode CMD. -/
theorem cmdReady_iff (s : State) : s.cmdReady = true ↔ s.inflight = none ∧ s.mode = .cmd := by
  simp [State.cmdReady]

/-- What the sequencer does next in a ready block to which a word is presented. -/
theorem work_accept {s : State} {w : Word} {rest : List Request} (h : s.cmdReady = true)
    (hc : s.client = ⟨0, w⟩ :: rest) : s.work = .accept w rest := by
  obtain ⟨h1, h2⟩ := (cmdReady_iff s).mp h
  simp [State.work, h1, h2, hc]

/-- In mode RUN, between two turns, the next work is a turn. -/
theorem work_turn {s : State} (hm : s.mode = .run) (ha : AtRest s) : s.work = .turn := by
  rcases ha with h | ⟨_, t, h⟩ <;> simp [State.work, h, hm]

/-- The acts of a turn that begins. -/
theorem turnActs_atRest (p : Config.Params) {s : State} (ha : AtRest s) :
    s.turnActs p = scriptTurn p s.rowIdx := by
  rcases ha with h | ⟨_, t, h⟩ <;> simp [State.turnActs, h]

/-- A step that answers a next state is: an rst that was due; an rst that cut the work short; or the
work undisturbed, with no rst up to its end. -/
theorem step_cases {s t : State} (h : step s = .next t) :
    (∃ r rs, s.resets = r :: rs ∧ r ≤ s.time ∧ t = s.applyReset Config.params s.time) ∨
    (∃ r rs u, s.resets = r :: rs ∧ s.time < r ∧ s.undisturbed Config.params exec = .next u ∧
      r ≤ u.time ∧ t = (s.cutAt Config.params r).applyReset Config.params r) ∨
    (s.undisturbed Config.params exec = .next t ∧ ∀ r ∈ s.resets.head?, s.time < r ∧ t.time < r) := by
  unfold step State.stepBy at h
  rcases hr : s.resets with _ | ⟨r, rs⟩
  · rw [hr] at h
    exact .inr (.inr ⟨h, by simp⟩)
  · rw [hr] at h
    simp only at h
    split at h
    · next hle =>
      cases h
      exact .inl ⟨r, rs, rfl, hle, rfl⟩
    · next hlt =>
      rcases hu : s.undisturbed Config.params exec with u | f | f
      · rw [hu] at h
        simp only at h
        split at h
        · next hle =>
          cases h
          exact .inr (.inl ⟨r, rs, u, rfl, by omega, rfl, hle, rfl⟩)
        · next hgt =>
          cases h
          refine .inr (.inr ⟨rfl, ?_⟩)
          intro x hx
          simp at hx
          omega
      · exact nomatch f
      · rw [hu] at h; cases h

/-- The work undisturbed, case by case (R27, R28, R79, R166). -/
theorem undisturbed_cases {s t : State} (h : s.undisturbed Config.params exec = .next t) :
    (∃ f, s.work = .flight f ∧ t = s.finishFlight Config.params f) ∨
    (s.work = .turn ∧ t = s.turn Config.params) ∨
    (s.work = .idle ∧ t = s.idle) ∨
    (∃ w rest i, s.work = .accept w rest ∧ decode w = .ok i ∧
      t = perform Config.params i { s with client := rest }) := by
  unfold State.undisturbed at h
  split at h
  · next f hf => cases h; exact .inl ⟨f, hf, rfl⟩
  · next hf => cases h; exact .inr (.inl ⟨hf, rfl⟩)
  · next hf => cases h; exact .inr (.inr (.inl ⟨hf, rfl⟩))
  · next w rest hf =>
    split at h
    · next i hd =>
      rw [exec_eq_perform] at h
      cases h
      exact .inr (.inr (.inr ⟨w, rest, i, hf, hd, rfl⟩))
    · cases h

end Sys2Proof.Machine
end

