-- ==== Sys2Proof/Laws/Table.lean ====
section
/-! SUPPORT. `wellFormedTable` gives well-formed tables, and every one of them (log 9). -/

namespace Sys2Proof.Config

open Sys2Proof

/-- The entries decision D12 (c), (d), (e) admits are those of `EntryOk`. -/
theorem entryOk_iff (e : Code) :
    EntryOk e ↔ e ≠ 0x100 ∧ (e.setWidth 8 ≠ extPrefix ∧ e.setWidth 8 ≠ brkPrefix) ∧
      (e.setWidth 8 = 0 → e = 0) := by
  constructor
  · rintro (rfl | ⟨h0, hx, hb⟩)
    · decide
    · refine ⟨?_, ⟨hx, hb⟩, fun h => absurd h h0⟩
      rintro rfl
      exact h0 (by decide)
  · rintro ⟨-, ⟨hx, hb⟩, h0⟩
    by_cases h : e.setWidth 8 = 0
    · exact .inl (h0 h)
    · exact .inr ⟨h, hx, hb⟩

theorem wellFormedTable_entryOk (aux : Row) (raw : Table) (r : Row) (c : Col) :
    EntryOk (wellFormedTable aux raw r c) := by
  unfold wellFormedTable
  split
  · decide
  · split
    · split
      · split
        · next h => exact h.1
        · decide
      · decide
    · split
      · next h => exact h
      · decide

/-- Whatever the function, the table is well formed. -/
theorem wellFormedTable_wf (aux : Row) (raw : Table) : TableWF aux (wellFormedTable aux raw) := by
  have h := fun r c => (entryOk_iff _).mp (wellFormedTable_entryOk aux raw r c)
  refine ⟨rfl, ⟨?_, ?_⟩, fun r c => (h r c).1, fun r c => (h r c).2.1, fun r c => (h r c).2.2⟩
  · intro r hr
    simp [wellFormedTable, hr]
  · simp only [wellFormedTable, show ¬(aux = 0 ∧ (5 : Col) = 0) by simp, if_false, if_true]
    split
    · next h => exact h.2
    · decide

/-- A well-formed table is left as it is: `table` ranges over all of them. -/
theorem wellFormedTable_of_wf (aux : Row) (t : Table) (h : TableWF aux t) :
    wellFormedTable aux t = t := by
  obtain ⟨h00, ⟨h5, haux⟩, h100, hp, h0⟩ := h
  have ok : ∀ r c, EntryOk (t r c) := fun r c => (entryOk_iff _).mpr ⟨h100 r c, hp r c, h0 r c⟩
  funext r c
  unfold wellFormedTable
  split
  · next h => rw [h.1, h.2, h00]
  · split
    · next hc =>
      subst hc
      split
      · next hr => subst hr; rw [if_pos ⟨ok r 5, haux⟩]
      · next hr => rw [h5 r hr]
    · rw [if_pos (ok r c)]

/-- The machine's table is well formed. -/
theorem table_wf : TableWF params.auxRow params.table := wellFormedTable_wf auxRow freeTable

end Sys2Proof.Config
end

