-- ==== Sys2Proof/Tests/Slice0.lean ====
section
/-! SUPPORT. Tests with expected results from 95_test_vectors.md (the vector is named at each), the
well-formedness smoke tests, and a witness for the hypotheses of each statement. -/

namespace Sys2Proof.Tests

open Sys2Proof Sys2Proof.Machine

/-! ## Helpers -/

/-- The test table T1 of 95_test_vectors.md, a fixture. -/
def t1 : Table := fun r c =>
  (([[0x012, 0x01A, 0x022, 0x021, 0x02A, 0x000], [0x01C, 0x01B, 0x023, 0x02B, 0x034, 0x000],
     [0x015, 0x01D, 0x024, 0x02D, 0x02C, 0x000], [0x016, 0x01E, 0x026, 0x025, 0x02E, 0x000],
     [0x045, 0x046, 0x03E, 0x03D, 0x036, 0x000], [0x04D, 0x044, 0x043, 0x03C, 0x035, 0x000],
     [0x05A, 0x04B, 0x042, 0x03B, 0x033, 0x000], [0x029, 0x014, 0x03A, 0x031, 0x032, 0x12F]] :
    List (List Code)).getD r.val []).getD c.val 0

/-- The parameters of the vectors: the defaults, with table T1 and `AUTORUN = 0`. -/
def tp : Config.Params where
  delayMode := .exact
  tSettle := 15
  tDeduct := 660
  tMirror := 0
  curReset := 0x3F
  rowReset := 0
  autorun := false
  auxRow := 7
  table := t1

/-- The state after reset with those parameters. -/
def start : State := State.resetWith tp

/-- `start`, the matrix going to answer `v`. -/
def answering (v : RowState) : State := { start with samples := [v] }

/-- A ready block to which the word `w` is presented. -/
def presented (w : Word) : State := { start with client := [⟨0, w⟩] }

/-- A block whose loop runs and is between two turns. -/
def looping : State := { start with mode := .run }

/-- The clock and the data latch at microsecond `t`. -/
def bus (s : State) (t : Nat) : Level × Level := (levelAt .data s.trace t, levelAt .clk s.trace t)

/-! ## Decoding: words of V40, bit by bit from R80, and the reserved words of V41 -/

theorem test_decode_init : decode 0b0000000000000000 = .ok .init := by decide
theorem test_decode_scanr_7 : decode 0b0001000000000111 = .ok (.scanr 7) := by decide
theorem test_decode_rchg_7 : decode 0b0010000000000111 = .ok (.rchg 7) := by decide
theorem test_decode_ctrn_1_2 : decode 0b0011000000010001 = .ok (.ctrn 1 2) := by decide
theorem test_decode_ctrn_7_5 : decode 0b0011000000101111 = .ok (.ctrn 7 5) := by decide
theorem test_decode_xlat_3_5 : decode 0b0100000000101011 = .ok (.xlat 3 5) := by decide
theorem test_decode_sendb : decode 0b0101000000010010 = .ok (.sendb 0x12) := by decide
theorem test_decode_mirb : decode 0b0110000000010010 = .ok (.mirb 0x12) := by decide
theorem test_decode_dly : decode 0b0111011111100100 = .ok (.dly 2020) := by decide
theorem test_decode_emitb : decode 0b1000000011100000 = .ok (.emitb 0xE0) := by decide
theorem test_decode_emitk_pressed : decode 0b1001000000010010 = .ok (.emitk .pressed 0x012) := by
  decide
theorem test_decode_emitk_released :
    decode 0b1001001101110101 = .ok (.emitk .released 0x175) := by decide
theorem test_decode_drow_7 : decode 0b1010000000000111 = .ok (.drow 7) := by decide
theorem test_decode_run : decode 0b1011000000000000 = .ok .run := by decide

theorem test_encode_words :
    [Instr.ctrn 0 1, .xlat 7 5, .dly 4000, .emitk .released 0x12F, .drow 0].map encode =
      [0x3008, 0x402F, 0x7FA0, 0x932F, 0xA000] := by decide

theorem test_reserved_operation :
    decode 0xC000 = .error .operation ∧ decode 0xF123 = .error .operation := by decide
theorem test_reserved_zero_bits :
    ([0x0001, 0x1008, 0x5112, 0x9412, 0xB001] : List Word).map decode =
      List.replicate 5 (.error .mustBeZero) := by decide
theorem test_reserved_column :
    ([0x3030, 0x3038, 0x4037] : List Word).map decode =
      List.replicate 3 (.error .column) := by decide

theorem test_table_word : decodeTableWord 16 0x932F = some (.emitk .released 0x12F) := by decide

/-! ## Well-formedness: an ill-formed term for each check, refused -/

theorem test_accepts_neighbours :
    ([0xB000, 0x0000, 0x1000, 0x3028, 0x402F, 0x5012, 0x9012] : List Word).all wordWellFormed := by
  decide
theorem test_refuses_words :
    ([0xC000, 0xF123, 0x0001, 0x1008, 0x3030, 0x3038, 0x4037, 0x5112, 0x9412, 0xB001] :
      List Word).any wordWellFormed = false := by decide

/-- T1 with the entry of one cell replaced. -/
def t1With (r : Row) (c : Col) (e : Code) : Table := fun r' c' =>
  if r' = r ∧ c' = c then e else t1 r' c'

theorem test_t1_wf : TableWF 7 t1 := by decide
theorem test_refuses_caps_shift : ¬ TableWF 7 (t1With 0 0 0x01A) := by decide
theorem test_refuses_second_extra : ¬ TableWF 7 (t1With 2 5 0x011) := by decide
theorem test_refuses_no_extra : ¬ TableWF 7 (t1With 7 5 0x000) := by decide
theorem test_refuses_entry_0x100 : ¬ TableWF 7 (t1With 3 3 0x100) := by decide
theorem test_refuses_prefix_bytes :
    ¬ TableWF 7 (t1With 3 3 0x0E0) ∧ ¬ TableWF 7 (t1With 3 3 0x1F0) := by decide
theorem test_refuses_settle : ¬ Config.Params.WF { tp with tSettle := 14 } := by decide
theorem test_params_wf : Config.Params.WF tp := by decide

/-! ## Reset (V16) -/

theorem test_reset_rows :
    (allRows.all fun r => State.reset.cur[r] == 0x3F && State.reset.prev[r] == 0x3F &&
      State.reset.row[r]) = true := by decide

/-! ## The scanner -/

/-- V17, the registers. -/
theorem test_scanr_shifts :
    let t := perform tp (.scanr 0) (answering 0x3E)
    t.prev[0] = 0x3F ∧ t.cur[0] = 0x3E ∧ t.cur[1] = 0x3F ∧ t.time = 15 ∧ t.samples = [] := by
  decide

/-- V17, the strobe. -/
theorem test_scanr_strobe :
    let t := perform tp (.scanr 0) (answering 0x3E)
    [0, 14, 15].map (levelAt (.row 0) t.trace) = [false, false, true] := by decide

/-- V23: INIT after activity. -/
theorem test_init_forgets :
    let t := perform tp .init { start with cur := put start.cur 0 0x3E, row := put start.row 3 false }
    t.cur = start.cur ∧ t.row = start.row ∧ t.time = 0 := by decide

/-- S1. -/
theorem test_rchg :
    [((0x3F : RowState), (0x3F : RowState)), (0x3F, 0x3E), (0x00, 0x00), (0x15, 0x2A), (0x3F, 0x1F)].map
      (fun x => (perform tp (.rchg 0)
        { start with prev := put start.prev 0 x.1, cur := put start.cur 0 x.2 }).rsp) =
      [0, 1, 0, 1, 1] := by decide

/-- V20: press and release in one sample. -/
theorem test_ctrn_both_ways :
    allCols.map (fun c => (perform tp (.ctrn 2 c)
      { start with prev := put start.prev 2 0x3D, cur := put start.cur 2 0x3B }).rsp) =
      [0, 2, 1, 0, 0, 0] := by decide

/-- V22: the extra column only. -/
theorem test_ctrn_extra_column :
    allCols.map (fun c => (perform tp (.ctrn 3 c) { start with cur := put start.cur 3 0x1F }).rsp) =
      [0, 0, 0, 0, 0, 1] := by decide

/-- The ideal matrix of R137 with the keys of V33 closed answers its sample. -/
theorem test_ideal_sample : idealSample (fun r c => r = 1 && decide (c.val ≤ 2)) 1 = 0x38 := by
  decide

/-! ## The transmitter -/

/-- V11. -/
theorem test_frame11 :
    ([0x00, 0x01, 0x12, 0x1C, 0x55, 0x75, 0x80, 0xE0, 0xF0, 0xFE, 0xFF] : List Byte).map frame11 =
      [0x600, 0x402, 0x624, 0x438, 0x6AA, 0x4EA, 0x500, 0x5C0, 0x7E0, 0x5FC, 0x7FE] := by decide

/-- V12: SENDB 0xE0 at its boundaries, as (data, clk). -/
theorem test_sendb_levels :
    [0, 14, 15, 44, 45, 59, 60, 345, 360, 540, 555, 600, 615, 645, 660].map
        (bus (perform tp (.sendb 0xE0) start)) =
      [(false, true), (false, true), (false, false), (false, false), (false, true), (false, true),
       (false, true), (false, true), (true, true), (false, true), (false, false), (true, true),
       (true, false), (true, true), (true, true)] := by decide

/-- V10: 33 calls, complete at 660. -/
theorem test_sendb_count :
    let t := perform tp (.sendb 0x12) start
    t.time = 660 ∧ (outputs t.trace).length = 33 ∧ t.clk = true ∧ t.data = true := by decide

/-! ## The translator and the dispatcher -/

/-- V37. -/
theorem test_xlat :
    [(perform tp (.xlat 0 0) start).rsp, (perform tp (.xlat 1 0) start).rsp,
     (perform tp (.xlat 3 5) start).rsp, (perform tp (.xlat 7 5) start).rsp] =
      [0x012, 0x01C, 0x000, 0x12F] := by decide

/-- R161's worked example. -/
theorem test_mirb : mirrorBytes (perform tp (.mirb 0x12) start).trace = [0x12] := by decide

/-- R162's worked example. -/
theorem test_dly : (perform tp (.dly 2020) start).time = 2020 := by decide

/-- R163's worked example; V30: the floor. -/
theorem test_emitb_budget :
    ([4000, 3340, 40, 0] : List (BitVec 12)).map
        (fun b => (perform tp (.emitb 0x12) { start with budget := b }).budget) =
      [3340, 2680, 0, 0] := by decide

/-- V24 to V29: the bytes of a key event. -/
theorem test_key_bytes :
    [keyBytes .pressed 0x012, keyBytes .released 0x012, keyBytes .pressed 0x175,
     keyBytes .released 0x175, keyBytes .pressed 0x000, keyBytes .released 0x000,
     keyBytes .pressed 0x100] =
      [[0x12], [0xF0, 0x12], [0xE0, 0x75], [0xE0, 0xF0, 0x75], [], [], [0xE0, 0x00]] := by decide

set_option maxRecDepth 20000 in
/-- V27: EMITK R, 0x175. -/
theorem test_emitk_extended_release :
    let t := perform tp (.emitk .released 0x175) { start with budget := 4000 }
    t.time = 1980 ∧ t.budget = 2020 ∧ mirrorBytes t.trace = [0xE0, 0xF0, 0x75] := by decide

set_option maxRecDepth 20000 in
/-- V33: three keys of one row, with `T_DEDUCT` 660. -/
theorem test_drow_three_keys :
    let t := perform tp (.drow 1) (answering 0x38)
    t.time = 4015 ∧ t.budget = 2020 ∧ mirrorBytes t.trace = [0x1C, 0x1B, 0x23] ∧
      indEvents t.trace = [.pressed, .pressed, .pressed] := by decide

set_option maxRecDepth 20000 in
/-- V34: the same with `T_DEDUCT` 330; V33 and V34 flag the discrepancy of R246. -/
theorem test_drow_three_keys_330 :
    let t := perform { tp with tDeduct := 330 } (.drow 1) (answering 0x38)
    t.time = 5005 ∧ t.budget = 3010 ∧ mirrorBytes t.trace = [0x1C, 0x1B, 0x23] := by decide

/-- V36. -/
theorem test_drow_times :
    [0, 6, 7, 8, 13, 18].map (drowTime tp) = [4015, 4015, 4635, 5295, 8595, 11895] ∧
    [0, 1, 3, 12, 13, 18].map (drowTime { tp with tDeduct := 330 }) =
      [4015, 4345, 5005, 7975, 8595, 11895] := by decide

/-- R166: RUN enters the loop, whose first turn (P4) is row 0. -/
theorem test_run :
    (perform tp .run start).mode = .run ∧
    ((perform tp .run (answering 0x3E)).turn tp).rowIdx = 1 ∧
    ((perform tp .run (answering 0x3E)).turn tp).time = 4015 := by decide

/-- R243: SCANR cut before its sample discards it and leaves only the strobe's fall. -/
theorem test_reset_discards_sample :
    (({ presented 0x1000 with samples := [0x3E] } : State).cutAt tp 15).trace =
      [⟨0, .setLine (.row 0) false⟩] := by decide

/-- R202, R243: an rst in the middle of a frame leaves it cut. -/
theorem test_reset_cuts_frame :
    ((presented 0x5012).cutAt tp 100).trace.length = 5 := by decide

/-- R211: a reserved word stops the step that would take it, by its reason. -/
theorem test_step_refuses_reserved :
    step (presented 0x3030) = .refused (.reservedWord 0x3030 .column) := rfl

/-! ## Witnesses: states and operands that meet all hypotheses of a statement together, for each of its
clauses or branches -/

theorem witness_DueResetWinsOverEverything :
    ({ start with resets := [7], time := 7 } : State).resets = 7 :: [] ∧ 7 ≤ 7 := by decide

/-- A ready block with `SENDB 0x12` presented and an rst at 100 (inside the frame) or 660 (its end). -/
def cutFrame (t : Nat) : State := { presented 0x5012 with resets := [t] }

theorem witness_ResetCutsTheOperationInFlight_cut :
    (cutFrame 660).cmdReady = true ∧ (cutFrame 660).client = ⟨0, 0x5012⟩ :: [] ∧
    decode 0x5012 = .ok (.sendb 0x12) ∧ (cutFrame 660).resets = 660 :: [] ∧
    (cutFrame 660).time < 660 ∧
    ∃ u, exec (.sendb 0x12) { cutFrame 660 with client := [] } = .next u ∧ 660 ≤ u.time :=
  ⟨by decide, rfl, by decide, rfl, by decide, _, rfl, by decide⟩

theorem witness_ResetCutsTheOperationInFlight_whole :
    (cutFrame 661).cmdReady = true ∧ (cutFrame 661).client = ⟨0, 0x5012⟩ :: [] ∧
    decode 0x5012 = .ok (.sendb 0x12) ∧ (cutFrame 661).resets = 661 :: [] ∧
    (cutFrame 661).time < 661 ∧
    ∃ u, exec (.sendb 0x12) { cutFrame 661 with client := [] } = .next u ∧ ¬ 661 ≤ u.time :=
  ⟨by decide, rfl, by decide, rfl, by decide, _, rfl, by decide⟩

/-- A block in mode RUN whose row 0 will not change, with an rst at `t`: its turn takes 4015 µs. -/
def cutTurn (t : Nat) : State := { looping with samples := [0x3F], resets := [t] }

theorem witness_ResetCutsTheOperationInFlight_turn_cut :
    (cutTurn 4015).resets = 4015 :: [] ∧ (cutTurn 4015).time < 4015 ∧
    ∃ u, step { cutTurn 4015 with resets := [] } = .next u ∧ 4015 ≤ u.time :=
  ⟨rfl, by decide, _, rfl, by decide⟩

theorem witness_ResetCutsTheOperationInFlight_turn_whole :
    (cutTurn 4016).resets = 4016 :: [] ∧ (cutTurn 4016).time < 4016 ∧
    ∃ u, step { cutTurn 4016 with resets := [] } = .next u ∧ ¬ 4016 ≤ u.time :=
  ⟨rfl, by decide, _, rfl, by decide⟩

/-- An rst at the very end of an idle microsecond. -/
theorem witness_ResetCutsTheOperationInFlight_idle :
    ({ start with resets := [1] } : State).resets = 1 :: [] ∧ start.time < 1 ∧
    ∃ u, step { start with resets := [] } = .next u ∧ 1 ≤ u.time := ⟨rfl, by decide, _, rfl, by decide⟩

theorem witness_DecodingAnEncodedInstructionGivesItBack :
    (Instr.emitk .released 0x1FF).wellFormed = true ∧ (Instr.ctrn 7 5).wellFormed = true := by decide

theorem witness_EncodingADecodedWordGivesItBack :
    decode 0x93FF = .ok (.emitk .released 0x1FF) := by decide

theorem witness_ReservedWordsAreRefused :
    ([0xC000, 0xFFFF, 0x0001, 0xBFFF, 0x3030, 0x403F] : List Word).all (fun w =>
      (presented w).cmdReady && (presented w).resets == [] &&
        (presented w).client == [⟨0, w⟩] && !wordWellFormed w) = true := by decide

theorem witness_ReservedWordsAreRefused_column :
    wordWellFormed 0x3030 = false ∧ decode 0x3030 = .error .column := by decide

theorem witness_StepRunsTheDecodedInstruction :
    (presented 0xA007).cmdReady = true ∧ (presented 0xA007).resets = [] ∧
    (presented 0xA007).client = ⟨0, 0xA007⟩ :: [] ∧ decode 0xA007 = .ok (.drow 7) ∧
    (Instr.drow 7).wellFormed = true := by decide

theorem witness_NothingHappensUntilAWordIsPresented_empty :
    start.cmdReady = true ∧ start.resets = [] ∧ start.client = [] := by decide

theorem witness_NothingHappensUntilAWordIsPresented_gap :
    let s : State := { start with client := [⟨1, 0xB000⟩] }
    s.cmdReady = true ∧ s.resets = [] ∧ s.client = ⟨0 + 1, 0xB000⟩ :: [] := by decide

theorem witness_BusyBlockTakesNoWord_ready :
    start.inflight = none ∧ start.mode = .cmd := by decide

/-- A block with the last 5 µs of a DLY still to run, and a word presented. -/
def waiting : State :=
  { presented 0xB000 with inflight := some ⟨.dly 9, 0, [.prim (.delay 5)]⟩, time := 4 }

theorem witness_BusyBlockTakesNoWord :
    waiting.cmdReady = false ∧ waiting.resets = [] ∧ ∃ t, step waiting = .next t :=
  ⟨by decide, rfl, _, rfl⟩

theorem witness_BusyBlockTakesNoWord_run :
    looping.cmdReady = false ∧ looping.resets = [] ∧ ∃ t, step looping = .next t :=
  ⟨by decide, rfl, _, rfl⟩

theorem witness_RchgRespondsWhetherTheRowChanged :
    start.cur[(7 : Row)] = 0x3F ∧ start.prev[(7 : Row)] = 0x3F := by decide

theorem witness_EachEdgeIsReportedOnce :
    ({ start with samples := [0x3E, 0x3E] } : State).samples = 0x3E :: 0x3E :: [] ∧
    (0x3E : RowState).getLsbD 5 = (0x3E : RowState).getLsbD 5 := by decide

theorem witness_FirstScanReportsNoRelease : (answering 0x00).cur[(7 : Row)] = 0x3F := by decide

theorem witness_UnstrobedRowReadsUnchanged :
    UnstrobedInitial Config.params (answering 0x3E) ∧ (answering 0x3E).strobed[(7 : Row)] = false :=
  ⟨by unfold UnstrobedInitial; decide, by decide⟩

/-- A block 7 µs after reset, `data` driven low 4 µs ago. -/
def dataLow : State := { start with data := false, time := 7, trace := [⟨3, .setLine .data false⟩] }

theorem dataLow_chronological : Chronological dataLow := by unfold Chronological; decide

theorem dataLow_traceAgrees : TraceAgrees dataLow := by
  intro l
  cases l with
  | clk => decide
  | data => decide
  | row r => revert r; decide

theorem witness_WaveformInClosedForm :
    Chronological dataLow ∧ TraceAgrees dataLow ∧ dataLow.clk = true ∧ 659 < 660 ∧ 660 ≤ 660 :=
  ⟨dataLow_chronological, dataLow_traceAgrees, rfl, by decide, by decide⟩

theorem witness_WireIsLowIfAnyDriverIsLow : ∀ o ∈ [true, true], o = true := by decide

theorem witness_EmitkSendsTheKeySequence : (0x000 : Code) = 0 ∧ (0x100 : Code) ≠ 0 := by decide

theorem witness_KeySequencesAreUniquelyDecodable :
    Config.EntryOk 0x175 ∧ (0x175 : Code) ≠ 0 ∧
    keyBytes .released 0x175 ++ [0xE0] = keyBytes .released 0x175 ++ [0xE0] := by decide

theorem witness_DrowTakesItsTime : tp.delayMode = .exact := by decide

/-- A row that is not the auxiliary key's. -/
def plainRow : Row := if Config.auxRow = 0 then 1 else 0

theorem witness_UnmappedCellCostsNothing :
    Config.table plainRow 5 = 0 ∧
    (answering 0x1F).nextSample = (answering 0x1F).cur[plainRow] ^^^ (1 <<< (5 : Col).val) := by
  refine ⟨Config.table_wf.2.1.1 plainRow ?_, ?_⟩
  · change plainRow ≠ Config.auxRow
    unfold plainRow
    split
    · next h => rw [h]; decide
    · next h => exact fun h' => h h'.symm
  · exact (by decide : ∀ r : Row,
      (answering 0x1F).nextSample = (answering 0x1F).cur[r] ^^^ (1 <<< (5 : Col).val)) plainRow

theorem witness_BudgetSaturatesOverAnyBytes :
    ({ start with budget := 4000 } : State).budget = 4000 := by decide

theorem witness_CapsShiftScenario :
    (answering 0x3E).cur[(0 : Row)] = 0x3F ∧ (answering 0x3E).nextSample = 0x3E := by decide

theorem witness_MirrorIsInLockstepWithTheWire :
    (∃ v, Instr.emitb 0x12 = .emitb v) ∧ (∃ k code, Instr.emitk .released 0x175 = .emitk k code) ∧
    (∃ r, Instr.drow 7 = .drow r) := ⟨⟨_, rfl⟩, ⟨_, _, rfl⟩, ⟨_, rfl⟩⟩

theorem looping_atRest : AtRest looping := .inl rfl

/-- A block in mode RUN with RUN in flight, as RUN leaves it. -/
def runAccepted : State := perform tp .run start

theorem runAccepted_atRest : AtRest runAccepted := .inr ⟨rfl, _, rfl⟩

/-- The hypotheses of RunTurnIsDrowOfRowIdx, RunIsRoundRobin, RevisitTimeIsBounded, and of the second
parts of MirrorIsInLockstepWithTheWire and FineStepsRefineExec, after reset with `AUTORUN = 1`. -/
theorem witness_RunTurnIsDrowOfRowIdx :
    looping.mode = .run ∧ AtRest looping ∧ looping.resets = [] := ⟨rfl, looping_atRest, rfl⟩

/-- The same after the command RUN. -/
theorem witness_RunIsRoundRobin :
    runAccepted.mode = .run ∧ AtRest runAccepted ∧ runAccepted.resets = [] :=
  ⟨rfl, runAccepted_atRest, rfl⟩

theorem witness_RevisitTimeIsBounded :
    ({ looping with rowIdx := 7 } : State).mode = .run ∧ AtRest { looping with rowIdx := 7 } ∧
    ({ looping with rowIdx := 7 } : State).resets = [] := ⟨rfl, .inl rfl, rfl⟩

theorem witness_OnlyResetLeavesModeRun_turn :
    looping.mode = .run ∧ ∃ t, step looping = .next t ∧ t.mode = .run :=
  ⟨rfl, _, rfl, (runActs_keeps _ looping).2.1⟩

theorem witness_OnlyResetLeavesModeRun_reset :
    let s : State := { looping with resets := [0] }
    s.mode = .run ∧ ∃ t, step s = .next t ∧ t.trace.getLast? = some ⟨0, .reset⟩ :=
  ⟨rfl, _, rfl, rfl⟩

theorem witness_AtLeastChangesOnlyTimes : (answering 0x3E).samples ≠ [] := by decide

theorem witness_ReadsChangeOnlyTheResponse :
    (∃ t, exec (.rchg 0) start = .next t) ∧ (∃ t, exec (.ctrn 7 5) start = .next t) ∧
    (∃ t, exec (.xlat 7 5) start = .next t) := ⟨⟨_, rfl⟩, ⟨_, rfl⟩, ⟨_, rfl⟩⟩

theorem witness_SendingLeavesTheScanner :
    (∃ t, exec (.sendb 0x12) start = .next t) ∧ (∃ t, exec (.mirb 0x12) start = .next t) ∧
    (∃ t, exec (.dly 4095) start = .next t) ∧ (∃ t, exec (.emitb 0xFF) start = .next t) ∧
    (∃ t, exec (.emitk .released 0x1FF) start = .next t) ∧ (0x1FF : Code) ≠ 0 :=
  ⟨⟨_, rfl⟩, ⟨_, rfl⟩, ⟨_, rfl⟩, ⟨_, rfl⟩, ⟨_, rfl⟩, by decide⟩

theorem witness_ScanningTouchesItsRowOnly :
    (∃ t, exec .init start = .next t) ∧ (∃ t, exec (.scanr 7) (answering 0x00) = .next t) ∧
    (∃ t, exec (.drow 7) (answering 0x00) = .next t) ∧ (6 : Row) ≠ 7 :=
  ⟨⟨_, rfl⟩, ⟨_, rfl⟩, ⟨_, rfl⟩, by decide⟩

theorem witness_EveryStepKeepsBetweenOps :
    BetweenOps Config.params (presented 0xA000) ∧ ∃ t, step (presented 0xA000) = .next t := by
  refine ⟨⟨.inl rfl, ⟨by decide, rfl, rfl⟩, ?_, ?_⟩, _, rfl⟩
  · unfold BudgetBounded; decide
  · unfold UnstrobedInitial; decide

/-- `dataLow` with SENDB presented. -/
def dataLowSend : State := { dataLow with client := [⟨0, 0x5012⟩] }

theorem witness_EveryStepKeepsTheTraceTrue :
    Chronological dataLowSend ∧ TraceAgrees dataLowSend ∧ ∃ t, step dataLowSend = .next t :=
  ⟨dataLow_chronological, dataLow_traceAgrees, _, rfl⟩

/-- A block in the middle of `SCANR 3`, its strobe low. -/
def strobing : State :=
  { start with
    row := put start.row 3 false
    inflight := some ⟨.scanr 3, 0, [.prim (.delay 15), .prim (.capture 3)]⟩ }

theorem witness_EveryFineStepKeepsOneStrobeLow :
    StrobeSafe strobing ∧ ∃ t, strobing.microStep tp = .next t :=
  ⟨⟨some 3, by decide, (by decide : strobePlan (some 3) [.prim (.delay 15), .prim (.capture 3)] = true)⟩,
    _, rfl⟩

theorem witness_FineStepsRefineExec :
    Instr.drow 7 ≠ .run ∧ (answering 0x00).inflight = none ∧ (answering 0x00).resets = [] := by decide

theorem witness_FineStepsShowSlotAndPhase :
    start.inflight = none ∧ start.resets = [] ∧ start.clk = true ∧ 0 < 660 ∧ 659 < 660 := by decide

end Sys2Proof.Tests
end

section
/-! The parity bit of a byte (30_encoding.md R71), read off the oddness `Nat.bodd` of the number of its ones. -/

namespace Sys2Proof.Machine

open Sys2Proof

/-- A bit counts as one or as nothing, so it is its own oddness. -/
@[simp] theorem bodd_bool_toNat (b : Bool) : b.toNat.bodd = b := by
  cases b <;> rfl

theorem popcount_eq_sum_bits (v : Byte) :
    popcount v = (v.getLsbD 0).toNat + (v.getLsbD 1).toNat + (v.getLsbD 2).toNat +
      (v.getLsbD 3).toNat + (v.getLsbD 4).toNat + (v.getLsbD 5).toNat + (v.getLsbD 6).toNat +
      (v.getLsbD 7).toNat := by
  simp [popcount, List.range_succ]

/-- Oddness turns the sum of the bits into their exclusive or. -/
theorem bodd_popcount (v : Byte) :
    (popcount v).bodd = (v.getLsbD 0 ^^ v.getLsbD 1 ^^ v.getLsbD 2 ^^ v.getLsbD 3 ^^
      v.getLsbD 4 ^^ v.getLsbD 5 ^^ v.getLsbD 6 ^^ v.getLsbD 7) := by
  simp only [popcount_eq_sum_bits, Nat.bodd_add, bodd_bool_toNat]

theorem par_eq_not_bodd_popcount (v : Byte) : par v = !(popcount v).bodd := by
  rw [par, Nat.mod_two_of_bodd]
  cases (popcount v).bodd <;> rfl

theorem par_toNat (v : Byte) : (par v).toNat = 1 - popcount v % 2 := by
  rw [par_eq_not_bodd_popcount, Nat.mod_two_of_bodd]
  cases (popcount v).bodd <;> rfl

/-- With the parity bit the number of ones is odd, which is what a receiver checks (R71, R72). -/
theorem popcount_add_par_odd (v : Byte) : (popcount v + (par v).toNat) % 2 = 1 := by
  rw [par_toNat]
  omega

/-- Settles O23: the parity bit negates the oddness of the popcount, and that oddness is the exclusive or
of the bits. -/
theorem parityMakesTheOnesOdd : Obligations.ParityMakesTheOnesOdd := by
  intro v
  refine ⟨par_toNat v, ?_, popcount_add_par_odd v, ?_⟩
  · rw [par_eq_not_bodd_popcount, bodd_popcount]
  · decide

end Sys2Proof.Machine
end

section
/-! Whether a row has changed (41_matrix_scanner.md R132), and RCHG, which answers it. -/

namespace Sys2Proof.Machine

open Sys2Proof

theorem changed_iff_ne (prev cur : RowState) : changed prev cur = true ↔ cur ≠ prev := by
  simp [changed]

/-- The exclusive or is 0 exactly on equal patterns. -/
theorem changed_iff_xor_ne_zero (prev cur : RowState) :
    changed prev cur = true ↔ cur ^^^ prev ≠ 0 := by
  rw [changed_iff_ne]
  exact not_congr BitVec.xor_eq_zero_iff.symm

/-- Patterns that agree in each of the six columns are equal. -/
theorem changed_iff_exists_col (prev cur : RowState) :
    changed prev cur = true ↔ ∃ c : Col, cur.getLsbD c.val ≠ prev.getLsbD c.val := by
  rw [changed_iff_ne, ← not_iff_not]
  push Not
  exact ⟨fun h c => h ▸ rfl, fun h => BitVec.eq_of_getLsbD_eq fun c hc => h ⟨c, hc⟩⟩

/-- The number RCHG responds for `changed` (R132). -/
def changedCode (prev cur : RowState) : BitVec 9 := if cur ≠ prev then 1 else 0

theorem changedCode_eq_one_iff (prev cur : RowState) :
    changedCode prev cur = 1 ↔ changed prev cur = true := by
  rw [changed_iff_ne, changedCode]
  split <;> simp [*]

/-- The response code as the model writes it: the flag, widened. -/
theorem setWidth_ofBool_changed (prev cur : RowState) :
    (BitVec.ofBool (changed prev cur)).setWidth 9 = changedCode prev cur := by
  by_cases h : cur = prev
  · simp [changed, changedCode, h]
  · have hc : changed prev cur = true := (changed_iff_ne prev cur).mpr h
    simp [hc, changedCode, h]

/-- The field of the row operand lies below the operation's bits, so `|||` adds it. -/
theorem encode_rchg (r : Row) : encode (.rchg r) = 0x2000 + BitVec.ofNat 16 r.val := by
  revert r
  decide

theorem exec_rchg (r : Row) (s : State) :
    exec (.rchg r) s = .next (s.respond (changedCode s.prev[r] s.cur[r])).finishReply := by
  rw [← setWidth_ofBool_changed]
  rfl

/-- A response and the completion show two events, in this order, and change nothing else. -/
theorem finishReply_respond (v : BitVec 9) (s : State) :
    (s.respond v).finishReply =
      { s with rsp := v, trace := s.trace ++ [⟨s.time, .rsp v⟩, ⟨s.time, .done⟩] } := by
  simp [State.finishReply, State.respond, State.emit]

/-- Settles O17: RCHG responds `changedCode` of the row's two snapshots, which is 1 exactly on a change,
and a change is what the exclusive or and the columns say it is. -/
theorem rchgRespondsWhetherTheRowChanged : Obligations.RchgRespondsWhetherTheRowChanged := by
  refine ⟨encode_rchg, fun r s => ?_⟩
  have one := changedCode_eq_one_iff s.prev[r] s.cur[r]
  refine ⟨?_, one.trans (changed_iff_xor_ne_zero _ _), one.trans (changed_iff_exists_col _ _), ?_⟩
  · rw [exec_rchg, finishReply_respond]
    rfl
  · intro hc hp
    exact if_neg (not_not.mpr (hc.trans hp.symm))

end Sys2Proof.Machine
end

section
/-! The absence of faults (60_exceptions.md R200). -/

namespace Sys2Proof.Machine

open Sys2Proof

/-- Settles O14: the next state of an operation is the one `perform` gives, and `Fault` has no constructor
(R200, D21), so there is no fault for a step to end in. -/
theorem noOperationAndNoStepFaults : Obligations.NoOperationAndNoStepFaults := by
  constructor
  · intro i s
    exact ⟨perform Config.params i s, exec_eq_perform i s⟩
  · intro s f
    cases f

end Sys2Proof.Machine
end

section
/-! Command words (30_encoding.md R80, R81): the fields of an encoded word, and the words that
decode. -/

namespace Sys2Proof

/-! ## The fields of an encoded word -/

/-- The field of a byte operand lies below the bits that name the operation. -/
theorem byteWord_op (op : Word) (v : Byte) :
    (op ||| v.setWidth 16).extractLsb' 12 4 = op.extractLsb' 12 4 := by
  apply BitVec.eq_of_getLsbD_eq
  intro i hi
  interval_cases i <;> simp

theorem byteWord_and_0F00 (op : Word) (v : Byte) :
    (op ||| v.setWidth 16) &&& 0x0F00 = op &&& 0x0F00 := by
  apply BitVec.eq_of_getLsbD_eq
  intro i hi
  interval_cases i <;> simp

theorem byteField_byteWord (op : Word) (v : Byte) :
    byteField (op ||| v.setWidth 16) = byteField op ||| v := by
  apply BitVec.eq_of_getLsbD_eq
  intro i hi
  simp [byteField, hi, show i < 16 by omega]

theorem dlyWord_op (n : BitVec 12) :
    (0x7000 ||| n.setWidth 16 : Word).extractLsb' 12 4 = 7 := by
  apply BitVec.eq_of_getLsbD_eq
  intro i hi
  interval_cases i <;> simp

theorem dlyWord_operand (n : BitVec 12) :
    (0x7000 ||| n.setWidth 16 : Word).extractLsb' 0 12 = n := by
  apply BitVec.eq_of_getLsbD_eq
  intro i hi
  interval_cases i <;> simp

theorem emitkWord_op (k : Edge) (code : Code) :
    (0x9000 ||| k.bits ||| code.setWidth 16 : Word).extractLsb' 12 4 = 9 := by
  apply BitVec.eq_of_getLsbD_eq
  intro i hi
  cases k <;> interval_cases i <;> simp [Edge.bits]

theorem emitkWord_and_0C00 (k : Edge) (code : Code) :
    (0x9000 ||| k.bits ||| code.setWidth 16 : Word) &&& 0x0C00 = 0 := by
  apply BitVec.eq_of_getLsbD_eq
  intro i hi
  cases k <;> interval_cases i <;> simp [Edge.bits]

theorem edgeField_emitkWord (k : Edge) (code : Code) :
    edgeField (0x9000 ||| k.bits ||| code.setWidth 16 : Word) = k := by
  cases k <;> simp [edgeField, Edge.bits]

theorem emitkWord_code (k : Edge) (code : Code) :
    (0x9000 ||| k.bits ||| code.setWidth 16 : Word).extractLsb' 0 9 = code := by
  apply BitVec.eq_of_getLsbD_eq
  intro i hi
  cases k <;> interval_cases i <;> simp [Edge.bits]

/-- The byte of a word whose own low bits are 0, as decoded. -/
theorem ifZero_byteWord {op : Word} (hz : op &&& 0x0F00 = 0) (hb : byteField op = 0) (v : Byte)
    (f : Byte → Instr) :
    ifZero (op ||| v.setWidth 16) 0x0F00 (f (byteField (op ||| v.setWidth 16))) = .ok (f v) := by
  have hv : (0 : Byte) ||| v = v := BitVec.zero_or
  rw [byteField_byteWord, hb, hv, ifZero, byteWord_and_0F00, if_pos hz]

/-! ## Decoding an encoded word -/

theorem decode_encode (i : Instr) : decode (encode i) = .ok i := by
  cases i with
  | init => decide
  | scanr r => revert r; decide
  | rchg r => revert r; decide
  | ctrn r c => revert r c; decide
  | xlat r c => revert r c; decide
  | sendb v =>
    rw [encode, decode, byteWord_op]
    exact ifZero_byteWord (op := 0x5000) (by decide) (by decide) v .sendb
  | mirb v =>
    rw [encode, decode, byteWord_op]
    exact ifZero_byteWord (op := 0x6000) (by decide) (by decide) v .mirb
  | dly n =>
    rw [encode, decode, dlyWord_op, dlyWord_operand]
    rfl
  | emitb v =>
    rw [encode, decode, byteWord_op]
    exact ifZero_byteWord (op := 0x8000) (by decide) (by decide) v .emitb
  | emitk k code =>
    rw [encode, decode, emitkWord_op, edgeField_emitkWord, emitkWord_code]
    exact if_pos (emitkWord_and_0C00 k code)
  | drow r => revert r; decide
  | run => decide

/-- The opcode table numbers a word by its value, so it decodes the same. -/
theorem decodeTableWord_toNat (w : Word) : decodeTableWord 16 w.toNat = (decode w).toOption := by
  have h : BitVec.ofNat 16 (w.toNat % 2 ^ 16) = w := by
    rw [Nat.mod_eq_of_lt w.isLt, BitVec.ofNat_toNat, BitVec.setWidth_eq]
  rw [decodeTableWord, h]
  cases decode w <;> rfl

/-- Settles O5: `decode` undoes `encode` for each constructor, and the table's numbering is the
word's own. -/
theorem decodingAnEncodedInstructionGivesItBack :
    Obligations.DecodingAnEncodedInstructionGivesItBack := by
  intro i _
  refine ⟨decode_encode i, ?_⟩
  rw [decodeTableWord_toNat, decode_encode]
  rfl

end Sys2Proof
end

section
/-! The words that decode: each is the encoding of what it decodes to, and of one row of
30_encoding.md R80. -/

namespace Sys2Proof

/-! ## The fields of a word, in their places -/

theorem rowBits_rowField (w : Word) : rowBits (rowField w) = w &&& 0x0007 := by
  apply BitVec.eq_of_getLsbD_eq
  intro i hi
  simp only [rowBits, rowField, BitVec.ofNat_toNat]
  interval_cases i <;> simp

theorem colBits_of_field {w : Word} {c : Col} (h : c.val = (w.extractLsb' 3 3).toNat) :
    colBits c = w &&& 0x0038 := by
  apply BitVec.eq_of_getLsbD_eq
  intro i hi
  simp only [colBits, h, BitVec.ofNat_toNat]
  interval_cases i <;> simp

theorem setWidth_byteField (w : Word) : (byteField w).setWidth 16 = w &&& 0x00FF := by
  apply BitVec.eq_of_getLsbD_eq
  intro i hi
  interval_cases i <;> simp [byteField]

theorem setWidth_dlyField (w : Word) : (w.extractLsb' 0 12).setWidth 16 = w &&& 0x0FFF := by
  apply BitVec.eq_of_getLsbD_eq
  intro i hi
  interval_cases i <;> simp

theorem setWidth_codeField (w : Word) : (w.extractLsb' 0 9).setWidth 16 = w &&& 0x01FF := by
  apply BitVec.eq_of_getLsbD_eq
  intro i hi
  interval_cases i <;> simp

theorem bits_edgeField (w : Word) : (edgeField w).bits = w &&& 0x0200 := by
  have hb : (edgeField w).bits = if w.getLsbD 9 then 0x0200 else 0 := by
    unfold edgeField
    split <;> rfl
  rw [hb]
  apply BitVec.eq_of_getLsbD_eq
  intro i hi
  cases h : w[9] <;> interval_cases i <;> simp [h]

/-- The bits 15..12 in their place. -/
theorem and_F000_of_op {w : Word} {k : Nat} (h : (w.extractLsb' 12 4).toNat = k) :
    w &&& (0xF000 : Word) = BitVec.ofNat 16 k <<< 12 := by
  subst h
  apply BitVec.eq_of_getLsbD_eq
  intro i hi
  rw [BitVec.ofNat_toNat]
  interval_cases i <;> simp

/-- A word with zeros under `z` is its bits 15..12 and the bits that are left. -/
theorem op_or_rest {w z rest : Word} {k : Nat} (h : (w.extractLsb' 12 4).toNat = k)
    (hz : w &&& z = 0) (hm : 0xF000 ||| z ||| rest = 0xFFFF) :
    BitVec.ofNat 16 k <<< 12 ||| (w &&& rest) = w := by
  calc BitVec.ofNat 16 k <<< 12 ||| (w &&& rest)
      = (w &&& (0xF000 : Word)) ||| (w &&& z) ||| (w &&& rest) := by
        rw [and_F000_of_op h, hz]; simp
    _ = w &&& (0xF000 ||| z ||| rest) := by rw [BitVec.and_or_distrib_left, BitVec.and_or_distrib_left]
    _ = w := by rw [hm]; exact BitVec.and_allOnes

/-! ## What a decoded word looks like -/

theorem ifZero_eq_ok {w mask : Word} {i j : Instr} (h : ifZero w mask i = .ok j) :
    w &&& mask = 0 ∧ j = i := by
  unfold ifZero at h
  split at h
  · next hz => cases h; exact ⟨hz, rfl⟩
  · cases h

theorem ifCell_eq_ok {w : Word} {f : Row → Col → Instr} {j : Instr} (h : ifCell w f = .ok j) :
    w &&& 0x0FC0 = 0 ∧ ∃ c : Col, c.val = (w.extractLsb' 3 3).toNat ∧ j = f (rowField w) c := by
  unfold ifCell at h
  split at h
  · next hz =>
    split at h
    · cases h; exact ⟨hz, _, rfl, rfl⟩
    · cases h
  · cases h

/-- A word has one meaning: what decodes is the encoding of what it decodes to (R80). -/
theorem encode_of_decode {w : Word} {i : Instr} (h : decode w = .ok i) : encode i = w := by
  unfold decode at h
  split at h
  case h_1 hk | h_12 hk =>
    obtain ⟨hz, rfl⟩ := ifZero_eq_ok h
    simpa [encode] using op_or_rest (rest := 0) hk hz (by decide)
  case h_2 hk | h_3 hk | h_11 hk =>
    obtain ⟨hz, rfl⟩ := ifZero_eq_ok h
    simpa [encode, rowBits_rowField] using op_or_rest (rest := 7) hk hz (by decide)
  case h_4 hk | h_5 hk =>
    obtain ⟨hz, c, hc, rfl⟩ := ifCell_eq_ok h
    simpa [encode, rowBits_rowField, colBits_of_field hc, BitVec.or_assoc,
      ← BitVec.and_or_distrib_left] using op_or_rest (rest := 0x3F) hk hz (by decide)
  case h_6 hk | h_7 hk | h_9 hk =>
    obtain ⟨hz, rfl⟩ := ifZero_eq_ok h
    simpa [encode, setWidth_byteField] using op_or_rest (rest := 0xFF) hk hz (by decide)
  case h_8 hk =>
    cases h
    simpa [encode, setWidth_dlyField] using
      op_or_rest (z := 0) (rest := 0x0FFF) hk (by simp) (by decide)
  case h_10 hk =>
    obtain ⟨hz, rfl⟩ := ifZero_eq_ok h
    simpa [encode, setWidth_codeField, bits_edgeField, BitVec.or_assoc,
      ← BitVec.and_or_distrib_left] using op_or_rest (rest := 0x3FF) hk hz (by decide)
  case h_13 => cases h

/-- Settles O6: the inverse of the round trip, field by field. -/
theorem encodingADecodedWordGivesItBack : Obligations.EncodingADecodedWordGivesItBack :=
  fun _ _ => encode_of_decode

/-! ## The rows of R80 accept what decodes -/

theorem wordWellFormed_iff (w : Word) :
    wordWellFormed w = true ↔ ∃ e ∈ encodingTable, e.accepts w = true := by
  simp [wordWellFormed]

/-- The word of every operation is of the row that has its mnemonic. -/
theorem wordWellFormed_encode (i : Instr) : wordWellFormed (encode i) = true := by
  have row : Laws.EncodingRow.Statement i := by
    cases i with
    | init => exact Laws.EncodingRow.init
    | scanr r => exact Laws.EncodingRow.scanr r
    | rchg r => exact Laws.EncodingRow.rchg r
    | ctrn r c => exact Laws.EncodingRow.ctrn r c
    | xlat r c => exact Laws.EncodingRow.xlat r c
    | sendb v => exact Laws.EncodingRow.sendb v
    | mirb v => exact Laws.EncodingRow.mirb v
    | dly n => exact Laws.EncodingRow.dly n
    | emitb v => exact Laws.EncodingRow.emitb v
    | emitk k code => exact Laws.EncodingRow.emitk k code
    | drow r => exact Laws.EncodingRow.drow r
    | run => exact Laws.EncodingRow.run
  obtain ⟨e, he, -, ha⟩ := row
  exact (wordWellFormed_iff _).mpr ⟨e, he, ha⟩

/-- What a match under `mask` says of the bits under a smaller mask. -/
theorem and_of_and {w mask pattern m : Word} (h : w &&& mask = pattern) (hm : mask &&& m = m) :
    w &&& m = pattern &&& m := by
  rw [← h, BitVec.and_assoc, hm]

/-- Every mask of R80 covers the bits 15..12, so a row's words have the operation bits of its
pattern. -/
theorem op_of_accepts {e : EncRow} (he : e ∈ encodingTable) {w : Word} (h : e.accepts w = true) :
    w.extractLsb' 12 4 = e.pattern.extractLsb' 12 4 := by
  have hmask : ∀ e ∈ encodingTable, e.mask &&& 0xF000 = 0xF000 := by decide
  have field : ∀ x : Word, (x &&& 0xF000).extractLsb' 12 4 = x.extractLsb' 12 4 := by
    intro x
    apply BitVec.eq_of_getLsbD_eq
    intro i hi
    interval_cases i <;> simp
  simp only [EncRow.accepts, Bool.and_eq_true, beq_iff_eq] at h
  rw [← field w, and_of_and h.1 (hmask e he), field]

theorem ifZero_of_and {w mask m : Word} {i : Instr} {pattern : Word} (h : w &&& mask = pattern)
    (hm : mask &&& m = m) (hp : pattern &&& m = 0) : ifZero w m i = .ok i :=
  if_pos ((and_of_and h hm).trans hp)

theorem ifCell_of_accepts {w pattern : Word} {f : Row → Col → Instr} (h : w &&& 0xFFC0 = pattern)
    (hp : pattern &&& 0x0FC0 = 0) (hc : (w.extractLsb' 3 3).toNat ≤ 5) :
    ∃ i, ifCell w f = .ok i :=
  ⟨_, (if_pos ((and_of_and h (by decide)).trans hp)).trans (dif_pos (by omega))⟩

/-- A word of a row of R80 decodes. -/
theorem exists_decode_of_accepts {e : EncRow} (he : e ∈ encodingTable) {w : Word}
    (h : e.accepts w = true) : ∃ i, decode w = .ok i := by
  have op := op_of_accepts he h
  simp only [EncRow.accepts, Bool.and_eq_true, beq_iff_eq, Bool.or_eq_true, Bool.not_eq_true',
    decide_eq_true_eq] at h
  obtain ⟨hw, hc⟩ := h
  unfold decode
  rw [op]
  simp only [encodingTable, List.mem_cons, List.not_mem_nil, or_false] at he
  rcases he with rfl | rfl | rfl | rfl | rfl | rfl | rfl | rfl | rfl | rfl | rfl | rfl
  -- CTRN and XLAT have a cell as operand, DLY has no zeros to check
  case inr.inr.inr.inl | inr.inr.inr.inr.inl =>
    exact ifCell_of_accepts hw (by decide) (by simpa using hc)
  case inr.inr.inr.inr.inr.inr.inr.inl => exact ⟨_, rfl⟩
  all_goals exact ⟨_, ifZero_of_and hw (by decide) (by decide)⟩

/-- The decoder accepts exactly the words of R80's rows. -/
theorem exists_decode_iff (w : Word) : (∃ i, decode w = .ok i) ↔ wordWellFormed w = true := by
  constructor
  · rintro ⟨i, h⟩
    rw [← encode_of_decode h]
    exact wordWellFormed_encode i
  · intro h
    obtain ⟨e, he, ha⟩ := (wordWellFormed_iff w).mp h
    exact exists_decode_of_accepts he ha

/-- The operation bits differ from row to row, so a word is of one row at most. -/
theorem accepting_rows_le_one (w : Word) : (encodingTable.filter (·.accepts w)).length ≤ 1 := by
  have one : ∀ k : BitVec 4,
      encodingTable.countP (fun e => e.pattern.extractLsb' 12 4 == k) ≤ 1 := by decide
  rw [← List.countP_eq_length_filter]
  refine (List.countP_mono_left fun e he ha => ?_).trans (one (w.extractLsb' 12 4))
  exact beq_iff_eq.mpr (op_of_accepts he ha).symm

/-- Settles O7: a decoded word is its operation's, which is of a row; a row's word has the bits
`decode` asks for; and the rows differ in the operation bits. -/
theorem decoderAcceptsExactlyTheRowsOfTheTable :
    Obligations.DecoderAcceptsExactlyTheRowsOfTheTable :=
  fun w => ⟨exists_decode_iff w, accepting_rows_le_one w⟩

/-- Settles O8: the words evaluate, one by one. -/
theorem spelledOutWordsDecode : Obligations.SpelledOutWordsDecode := by
  unfold Obligations.SpelledOutWordsDecode
  decide

end Sys2Proof
end

section
/-! The command port (30_encoding.md R79, R81, 10_state.md R27, R28): what a step of a ready block
does, and of one that is not ready. -/

namespace Sys2Proof

/-! ## Reserved words -/

theorem ifZero_error {w mask : Word} {i : Instr} {why : Reserved} (h : ifZero w mask i = .error why) :
    why = .mustBeZero := by
  unfold ifZero at h
  split at h
  · cases h
  · exact (Except.error.inj h).symm

theorem ifCell_error {w : Word} {f : Row → Col → Instr} {why : Reserved}
    (h : ifCell w f = .error why) :
    why ≠ .operation ∧ (why = .column → 6 ≤ (w.extractLsb' 3 3).toNat) := by
  unfold ifCell at h
  split at h
  · split at h
    · cases h
    · next hc =>
      cases h
      exact ⟨by decide, fun _ => by omega⟩
  · cases h
    exact ⟨by decide, fun h => nomatch h⟩

/-- Why a word is reserved (R81). -/
theorem decode_error {w : Word} {why : Reserved} (h : decode w = .error why) :
    (why = .operation ↔ 0xC ≤ (w.extractLsb' 12 4).toNat) ∧
      (why = .column → 6 ≤ (w.extractLsb' 3 3).toNat) := by
  unfold decode at h
  split at h
  case h_4 hk | h_5 hk =>
    obtain ⟨hop, hcol⟩ := ifCell_error h
    exact ⟨⟨fun e => absurd e hop, fun e => by omega⟩, hcol⟩
  case h_8 => cases h
  case h_13 =>
    cases h
    simp only [imp_false] at *
    exact ⟨iff_of_true trivial (by omega), fun h => nomatch h⟩
  all_goals
    next hk =>
      obtain rfl := ifZero_error h
      exact ⟨⟨fun h => (nomatch h), fun h => by omega⟩, fun h => nomatch h⟩

end Sys2Proof

namespace Sys2Proof.Machine

open Sys2Proof

/-! ## The work undisturbed, by what it is -/

section
variable {p : Config.Params} {ex : Instr → State → Host.Outcome State Fault Refusal} {s : State}

theorem undisturbed_flight {f : Flight} (h : s.work = .flight f) :
    s.undisturbed p ex = .next (s.finishFlight p f) := by
  rw [State.undisturbed, h]

theorem undisturbed_turn (h : s.work = .turn) : s.undisturbed p ex = .next (s.turn p) := by
  rw [State.undisturbed, h]

theorem undisturbed_idle (h : s.work = .idle) : s.undisturbed p ex = .next s.idle := by
  rw [State.undisturbed, h]

theorem undisturbed_accept {w : Word} {rest : List Request} {i : Instr} (h : s.work = .accept w rest)
    (hd : decode w = .ok i) : s.undisturbed p ex = ex i { s with client := rest } := by
  rw [State.undisturbed, h]
  simp only [hd]

theorem undisturbed_reserved {w : Word} {rest : List Request} {why : Reserved}
    (h : s.work = .accept w rest) (hd : decode w = .error why) :
    s.undisturbed p ex = .refused (.reservedWord w why) := by
  rw [State.undisturbed, h]
  simp only [hd]

end

/-! ## A step of a ready block -/

/-- A presented word that decodes is executed (R79). -/
theorem step_of_decode_ok {s : State} {w : Word} {rest : List Request} {i : Instr}
    (hr : s.cmdReady = true) (hn : s.resets = []) (hc : s.client = ⟨0, w⟩ :: rest)
    (hd : decode w = .ok i) : step s = exec i { s with client := rest } :=
  (step_undisturbed s hn).trans (undisturbed_accept (work_accept hr hc) hd)

/-- Settles O9: a word of no row does not decode, and the decoder's reasons are those of R81. -/
theorem reservedWordsAreRefused : Obligations.ReservedWordsAreRefused := by
  intro s w rest hr hn hc hw
  cases hd : decode w with
  | ok i =>
    have := (exists_decode_iff w).mp ⟨i, hd⟩
    rw [hw] at this
    cases this
  | error why =>
    obtain ⟨hop, hcol⟩ := decode_error hd
    have hstep := (step_undisturbed s hn).trans (undisturbed_reserved (work_accept hr hc) hd)
    exact ⟨why, rfl, hstep, hop, hcol⟩

/-- Settles O10: the step takes the word from the port, and the rest is `exec`. -/
theorem stepRunsTheDecodedInstruction : Obligations.StepRunsTheDecodedInstruction := by
  intro s w rest i hr hn hc hd _
  exact step_of_decode_ok hr hn hc hd

/-- Settles O11: the placed word is the operation's own, so by the round trip the step executes it.
-/
theorem everyInstructionCanBeFetched : Obligations.EveryInstructionCanBeFetched := by
  intro s i
  have hw : BitVec.ofNat 16 ((encode i).toNat % 2 ^ 16) = encode i := by
    rw [Nat.mod_eq_of_lt (encode i).isLt, BitVec.ofNat_toNat, BitVec.setWidth_eq]
  refine step_of_decode_ok (s := s.withFetchWord 16 (encode i).toNat) rfl rfl ?_ (decode_encode i)
  rw [State.withFetchWord, hw]

/-- Settles O12: with no word presented the work is one idle microsecond. -/
theorem nothingHappensUntilAWordIsPresented : Obligations.NothingHappensUntilAWordIsPresented := by
  intro s hr hn
  obtain ⟨hf, hm⟩ := (cmdReady_iff s).mp hr
  constructor
  · intro hc
    rw [step_undisturbed s hn, undisturbed_idle (by simp [State.work, hf, hm, hc])]
    simp [State.idle, State.pass, hc]
  · intro n w rest hc
    rw [step_undisturbed s hn, undisturbed_idle (by simp [State.work, hf, hm, hc])]
    simp [State.idle, State.pass, hc]

/-! ## A step of a block that is not ready -/

/-- What a block that is not ready does next: it ends the operation in flight, or takes a turn. -/
theorem work_of_not_ready {s : State} (h : s.cmdReady = false) :
    (∃ f, s.work = .flight f) ∨ s.work = .turn := by
  unfold State.work
  cases hf : s.inflight with
  | some f =>
    by_cases hr : f.op = .run
    · exact .inr (if_pos hr)
    · exact .inl ⟨f, if_neg hr⟩
  | none =>
    cases hm : s.mode with
    | run => exact .inr rfl
    | cmd => simp [State.cmdReady, hf, hm] at h

/-- The client is not looked at where the block is not ready. -/
theorem work_client {s : State} (h : s.cmdReady = false) (c : List Request) :
    State.work { s with client := c } = s.work := by
  unfold State.work
  cases hf : s.inflight with
  | some f => rfl
  | none =>
    cases hm : s.mode with
    | run => rfl
    | cmd => simp [State.cmdReady, hf, hm] at h

theorem complete_client (i : Instr) (c : List Request) (s : State) :
    complete i { s with client := c } = { complete i s with client := c } := by cases i <;> rfl

variable {p : Config.Params}

theorem finishFlight_client (f : Flight) (c : List Request) (s : State) :
    State.finishFlight p f { s with client := c } = { s.finishFlight p f with client := c } := by
  have h := runActs_client (p := p) f.rest c { s with inflight := none }
  unfold State.finishFlight
  rw [h, complete_client]

theorem turn_client (c : List Request) (s : State) :
    State.turn p { s with client := c } = { s.turn p with client := c } := by
  have h := runActs_client (p := p) (s.turnActs p) c s
  unfold State.turn
  rw [show State.turnActs p { s with client := c } = s.turnActs p from rfl, h]

/-- No operation changes the mode but RUN. -/
theorem complete_mode (i : Instr) (s : State) : (complete i s).mode = s.mode := by cases i <;> rfl

theorem finishFlight_keeps (f : Flight) (s : State) :
    (s.finishFlight p f).mode = s.mode ∧ (s.finishFlight p f).client = s.client ∧
      (s.finishFlight p f).resets = s.resets := by
  obtain ⟨-, -, -, -, hc, hr⟩ := complete_events f.op (runActs p f.rest { s with inflight := none })
  obtain ⟨-, km, kc, kr⟩ := runActs_keeps (p := p) f.rest { s with inflight := none }
  exact ⟨(complete_mode _ _).trans km, hc.trans kc, hr.trans kr⟩

theorem turn_keeps (s : State) :
    (s.turn p).mode = s.mode ∧ (s.turn p).client = s.client ∧ (s.turn p).resets = s.resets :=
  (runActs_keeps (s.turnActs p) s).2

theorem cutAt_client_of_not_ready {s : State} (h : s.cmdReady = false) (t : Nat) :
    (s.cutAt p t).client = s.client := by
  unfold State.cutAt
  rcases work_of_not_ready h with ⟨f, hw⟩ | hw <;> rw [hw] <;>
    exact (runActsUntil_keeps t _ s).1

/-- The work of a block that is not ready leaves the mode and the client. -/
theorem undisturbed_keeps_of_not_ready {s t : State} (h : s.cmdReady = false)
    (ht : s.undisturbed Config.params exec = .next t) : t.mode = s.mode ∧ t.client = s.client := by
  rcases work_of_not_ready h with ⟨f, hw⟩ | hw
  · cases (undisturbed_flight hw).symm.trans ht
    obtain ⟨hm, hc, -⟩ := finishFlight_keeps (p := Config.params) f s
    exact ⟨hm, hc⟩
  · cases (undisturbed_turn hw).symm.trans ht
    obtain ⟨hm, hc, -⟩ := turn_keeps (p := Config.params) s
    exact ⟨hm, hc⟩

/-- A block that is not ready takes no word (R79). -/
theorem step_client_of_not_ready {s t : State} (h : s.cmdReady = false) (ht : step s = .next t) :
    t.client = s.client := by
  rcases step_cases ht with ⟨-, -, -, -, rfl⟩ | ⟨r, -, u, -, -, hu, -, rfl⟩ | ⟨hu, -⟩
  · rfl
  · exact cutAt_client_of_not_ready h r
  · exact (undisturbed_keeps_of_not_ready h hu).2

/-- The work of a block that is not ready is the same whatever words the client holds (R233). -/
theorem undisturbed_client {s : State} (h : s.cmdReady = false) (c : List Request) :
    ∃ t, s.undisturbed p exec = .next t ∧
      State.undisturbed p exec { s with client := c } = .next { t with client := c } := by
  have hwc := work_client h c
  rcases work_of_not_ready h with ⟨f, hw⟩ | hw
  · refine ⟨_, undisturbed_flight hw, (undisturbed_flight (hwc.trans hw)).trans ?_⟩
    rw [finishFlight_client]
  · refine ⟨_, undisturbed_turn hw, (undisturbed_turn (hwc.trans hw)).trans ?_⟩
    rw [turn_client]

/-- Settles O13: what is not ready ends its operation or takes a turn, and neither looks at the
client. -/
theorem busyBlockTakesNoWord : Obligations.BusyBlockTakesNoWord := by
  refine ⟨fun s => ⟨?_, cmdReady_iff s⟩, fun s t => step_client_of_not_ready, fun s c h hn => ?_⟩
  · unfold State.cmdReady State.busy
    cases s.inflight <;> cases s.mode <;> rfl
  · rw [step_undisturbed s hn, step_undisturbed { s with client := c } hn]
    exact undisturbed_client h c

/-- Settles O48: in mode RUN the work keeps the mode, and what a reset leaves ends with its event.
-/
theorem onlyResetLeavesModeRun : Obligations.OnlyResetLeavesModeRun := by
  intro s t hm ht
  have hready : s.cmdReady = false := by simp [State.cmdReady, hm]
  refine ⟨step_client_of_not_ready hready ht, ?_⟩
  rcases step_cases ht with ⟨r, rs, hr, -, rfl⟩ | ⟨r, rs, u, hr, -, -, -, rfl⟩ | ⟨hu, -⟩
  · exact .inr ⟨s.time, by simp, by simp [hr]⟩
  · exact .inr ⟨r, by simp, by simp [hr]⟩
  · exact .inl ((undisturbed_keeps_of_not_ready hready hu).1.trans hm)

/-- Settles O3: `applyReset` in a state whose reset is due. -/
theorem dueResetWinsOverEverything : Obligations.DueResetWinsOverEverything := by
  intro s t ts hr ht
  rw [step, State.stepBy, hr]
  simp only [if_pos ht, State.applyReset, hr, List.tail_cons]
  rfl

end Sys2Proof.Machine
end

section
/-! The whole effect of each operation, with exact waits (R84, R130 to R133, R160 to R165). -/

namespace Sys2Proof.Machine

open Sys2Proof

variable {p : Config.Params}

theorem eq_perform_of_exec {i : Instr} {s t : State} (h : exec i s = .next t) :
    t = perform Config.params i s := by
  rw [exec_eq_perform] at h
  exact (Host.Outcome.next.inj h).symm

/-! ## INIT -/

/-- A write to every row leaves nothing of the bank. -/
theorem foldl_put_allRows {α : Type} (b : Bank α) (x : α) :
    allRows.foldl (fun b r => put b r x) b = Vector.replicate 8 x := by
  apply Vector.ext
  intro i hi
  simp only [allRows, List.foldl_cons, List.foldl_nil, put, Vector.getElem_set, Vector.getElem_replicate]
  interval_cases i <;> rfl

theorem runPrims_releaseRows (rs : List Row) (s : State) :
    runPrims p (rs.flatMap (fun r => [.setLine (.row r) true, .clearRow r])) s = { s with
      row := rs.foldl (fun b r => put b r true) s.row
      prev := rs.foldl (fun b r => put b r Config.allReleased) s.prev
      cur := rs.foldl (fun b r => put b r p.curReset) s.cur
      strobed := rs.foldl (fun b r => put b r false) s.strobed
      trace := s.trace ++ rs.map (fun r => ⟨s.time, .setLine (.row r) true⟩) } := by
  induction rs generalizing s with
  | nil => simp [runPrims]
  | cons r rs ih =>
    rw [List.flatMap_cons, runPrims_append, ih]
    simp [runPrims, Prim.run, State.setLine, State.clearRow, State.emit]

theorem perform_init (s : State) :
    perform p .init s = { s with
      row := Vector.replicate 8 true
      prev := Vector.replicate 8 Config.allReleased
      cur := Vector.replicate 8 p.curReset
      strobed := Vector.replicate 8 false
      rsp := Config.freeResponse s.draws
      draws := s.draws + 1
      trace := s.trace ++ allRows.map (fun r => ⟨s.time, .setLine (.row r) true⟩) ++
        [⟨s.time, .done⟩] } := by
  have hrun := runPrims_releaseRows (p := p) allRows s
  simp only [foldl_put_allRows] at hrun
  rw [perform_eq (by decide), script, runActs_map_prim, scriptInit, hrun]
  rfl

/-! ## SCANR -/

theorem runPrims_scanr (h : p.delayMode = .exact) (r : Row) (s : State) :
    runPrims p (scriptScanr p r) s = { s with
      row := put s.row r true
      prev := put s.prev r s.cur[r]
      cur := put s.cur r s.nextSample
      strobed := put s.strobed r true
      time := s.time + p.tSettle
      samples := s.samples.tail
      draws := s.draws + s.sampleDraws
      trace := s.trace ++ [⟨s.time, .setLine (.row r) false⟩,
        ⟨s.time + p.tSettle, .sample r s.nextSample⟩, ⟨s.time + p.tSettle, .setLine (.row r) true⟩] } := by
  have hput : put (put s.row r false) r true = put s.row r true := by simp [put]
  simp [scriptScanr, runPrims, Prim.run, wait_exact h, capture_eq, State.setLine, State.emit,
    State.pass, State.nextSample, State.sampleDraws, hput]

theorem perform_scanr (h : p.delayMode = .exact) (r : Row) (s : State) :
    perform p (.scanr r) s = { s with
      row := put s.row r true
      prev := put s.prev r s.cur[r]
      cur := put s.cur r s.nextSample
      strobed := put s.strobed r true
      time := s.time + p.tSettle
      samples := s.samples.tail
      rsp := Config.freeResponse (s.draws + s.sampleDraws)
      draws := s.draws + s.sampleDraws + 1
      trace := s.trace ++ [⟨s.time, .setLine (.row r) false⟩,
        ⟨s.time + p.tSettle, .sample r s.nextSample⟩, ⟨s.time + p.tSettle, .setLine (.row r) true⟩,
        ⟨s.time + p.tSettle, .done⟩] } := by
  rw [perform_eq (by simp), script, runActs_map_prim, runPrims_scanr h]
  simp [complete, State.finishSilent, State.emit]

/-! ## The reads -/

/-- CTRN's response (R75, decision D4). -/
def transitionResponse (prev cur : RowState) (c : Col) : BitVec 9 :=
  if prev.getLsbD c.val = true ∧ cur.getLsbD c.val = false then 1
  else if prev.getLsbD c.val = false ∧ cur.getLsbD c.val = true then 2
  else 0

theorem setWidth_transitionCode (prev cur : RowState) (c : Col) :
    (transitionCode (transition prev cur c)).setWidth 9 = transitionResponse prev cur c := by
  unfold transition edge transitionResponse
  cases prev.getLsbD c.val <;> cases cur.getLsbD c.val <;> rfl

theorem perform_ctrn (r : Row) (c : Col) (s : State) :
    perform p (.ctrn r c) s =
      (s.respond (transitionResponse s.prev[r] s.cur[r] c)).finishReply := by
  rw [← setWidth_transitionCode]
  rfl

theorem perform_xlat (r : Row) (c : Col) (s : State) :
    perform p (.xlat r c) s = (s.respond (p.table r c)).finishReply := rfl

/-! ## Bytes and waits -/

theorem perform_sendb (h : p.delayMode = .exact) (v : Byte) (s : State) :
    perform p (.sendb v) s = { s with
      clk := true, data := true
      time := s.time + 660
      rsp := Config.freeResponse s.draws
      draws := s.draws + 1
      trace := s.trace ++ frameEvents s.time v ++ [⟨s.time + 660, .done⟩] } := by
  rw [perform_eq (by simp), script, runActs_map_prim, runPrims_sendb h]
  rfl

theorem perform_mirb (h : p.delayMode = .exact) (v : Byte) (s : State) :
    perform p (.mirb v) s = { s with
      time := s.time + p.tMirror
      rsp := Config.freeResponse s.draws
      draws := s.draws + 1
      trace := s.trace ++ [⟨s.time, .mirror v⟩, ⟨s.time + p.tMirror, .done⟩] } := by
  rw [perform_eq (by simp), script, runActs_map_prim]
  simp [scriptMirb, runPrims, Prim.run, wait_exact h, State.emit, State.pass, complete,
    State.finishSilent]

theorem perform_dly (h : p.delayMode = .exact) (n : BitVec 12) (s : State) :
    perform p (.dly n) s = { s with
      time := s.time + n.toNat
      rsp := Config.freeResponse s.draws
      draws := s.draws + 1
      trace := s.trace ++ [⟨s.time + n.toNat, .done⟩] } := by
  rw [perform_eq (by simp), script, runActs_map_prim]
  simp [scriptDly, runPrims, Prim.run, wait_exact h, State.emit, State.pass, complete,
    State.finishSilent]

theorem perform_emitb (h : p.delayMode = .exact) (v : Byte) (s : State) :
    perform p (.emitb v) s = { s with
      clk := true, data := true
      time := s.time + byteTime p
      budget := budgetAfter p s.budget 1
      rsp := Config.freeResponse s.draws
      draws := s.draws + 1
      trace := s.trace ++ bytesEvents p s.time [v] ++ [⟨s.time + byteTime p, .done⟩] } := by
  rw [perform_eq (by simp), script, runActs_map_prim, runPrims_emitb h]
  rfl

theorem perform_emitk (h : p.delayMode = .exact) (k : Edge) (code : Code) (s : State) :
    perform p (.emitk k code) s = { s with
      clk := if (keyBytes k code).length = 0 then s.clk else true
      data := if (keyBytes k code).length = 0 then s.data else true
      time := s.time + (keyBytes k code).length * byteTime p
      budget := budgetAfter p s.budget (keyBytes k code).length
      rsp := Config.freeResponse s.draws
      draws := s.draws + 1
      trace := s.trace ++ bytesEvents p s.time (keyBytes k code) ++
        [⟨s.time + (keyBytes k code).length * byteTime p, .done⟩] } := by
  rw [perform_eq (by simp), script, runActs_map_prim, scriptEmitk, runPrims_bytes h]
  rfl

/-! ## A row -/

theorem perform_drow (h : p.delayMode = .exact) (r : Row) (s : State) :
    perform p (.drow r) s =
      let ks := keyEvents p r s.cur[r] s.nextSample
      let n := (keyEventsBytes ks).length
      let left := budgetAfter p 4000 n
      { s with
        row := put s.row r true
        prev := put s.prev r s.cur[r]
        cur := put s.cur r s.nextSample
        strobed := put s.strobed r true
        samples := s.samples.tail
        clk := if n = 0 then s.clk else true
        data := if n = 0 then s.data else true
        budget := left
        time := s.time + p.tSettle + n * byteTime p + left.toNat
        rsp := Config.freeResponse (s.draws + s.sampleDraws)
        draws := s.draws + s.sampleDraws + 1
        trace := s.trace ++
          ([⟨s.time, .setLine (.row r) false⟩, ⟨s.time + p.tSettle, .sample r s.nextSample⟩,
            ⟨s.time + p.tSettle, .setLine (.row r) true⟩] ++
            keyEventsTrace p (s.time + p.tSettle) ks) ++
          [⟨s.time + p.tSettle + n * byteTime p + left.toNat, .done⟩] } := by
  rw [perform_eq (by simp), script, runActs_drow h]
  rfl

/-- What is left of a whole budget after `n` deductions (R168). -/
theorem budgetAfter_full (n : Nat) :
    budgetAfter p 4000 n = BitVec.ofNat 12 (4000 - min 4000 (n * p.tDeduct)) := rfl

theorem toNat_budgetAfter_full (n : Nat) :
    (budgetAfter p 4000 n).toNat = 4000 - min 4000 (n * p.tDeduct) := by
  rw [budgetAfter_full, BitVec.toNat_ofNat, Nat.mod_eq_of_lt (by omega)]

end Sys2Proof.Machine
end

section
/-! The scanner's statements (41_matrix_scanner.md R130 to R140). -/

namespace Sys2Proof.Machine

open Sys2Proof

/-- Settles O15: INIT's writes to every row leave whole banks. -/
theorem initReleasesEverything : Obligations.InitReleasesEverything := by
  intro s
  rw [exec_eq_perform, perform_init]
  rfl

/-- Settles O16: SCANR with the machine's `T_SETTLE`. -/
theorem scanrShiftsTheSampleIn : Obligations.ScanrShiftsTheSampleIn := by
  intro r s
  rw [exec_eq_perform, perform_scanr params_exact]
  rfl

/-- Settles O18: CTRN responds `transitionResponse`. -/
theorem ctrnRespondsTheTransition : Obligations.CtrnRespondsTheTransition := by
  intro r c s
  rw [exec_eq_perform, perform_ctrn, finishReply_respond]
  rfl

/-! ## Transitions -/

theorem transition_eq_pressed_iff (prev cur : RowState) (c : Col) :
    transition prev cur c = .pressed ↔ prev.getLsbD c.val = true ∧ cur.getLsbD c.val = false := by
  unfold transition edge
  cases prev.getLsbD c.val <;> cases cur.getLsbD c.val <;> decide

theorem transition_eq_released_iff (prev cur : RowState) (c : Col) :
    transition prev cur c = .released ↔ prev.getLsbD c.val = false ∧ cur.getLsbD c.val = true := by
  unfold transition edge
  cases prev.getLsbD c.val <;> cases cur.getLsbD c.val <;> decide

theorem transition_eq_none_iff (prev cur : RowState) (c : Col) :
    transition prev cur c = .none ↔ cur.getLsbD c.val = prev.getLsbD c.val := by
  unfold transition edge
  cases prev.getLsbD c.val <;> cases cur.getLsbD c.val <;> decide

/-- What was pressed and what was released make up the change (R134). -/
theorem pressedSet_or_releasedSet (prev cur : RowState) :
    pressedSet prev cur ||| releasedSet prev cur = cur ^^^ prev := by
  apply BitVec.eq_of_getLsbD_eq
  intro i hi
  simp only [pressedSet, releasedSet, BitVec.getLsbD_or, BitVec.getLsbD_and, BitVec.getLsbD_not,
    BitVec.getLsbD_xor, hi, decide_true, Bool.true_and]
  cases prev.getLsbD i <;> cases cur.getLsbD i <;> rfl

/-- Settles O19: a row differs where some column does, and each column by its two bits. -/
theorem rowChangedIffSomeTransition : Obligations.RowChangedIffSomeTransition := by
  intro prev cur
  refine ⟨?_, fun c => ?_, fun c => ?_, pressedSet_or_releasedSet prev cur⟩
  · rw [changed_iff_exists_col]
    exact exists_congr fun c => not_congr (transition_eq_none_iff prev cur c).symm
  · rw [transition_eq_pressed_iff]
    simp [pressedSet]
  · rw [transition_eq_released_iff]
    simp [releasedSet]

/-! ## Scans of a row -/

/-- After SCANR the row's cells compare the snapshot before with the sample (R131, R138). -/
theorem cellTransition_scanr {p : Config.Params} (h : p.delayMode = .exact) (r : Row) (s : State)
    (c : Col) :
    (perform p (.scanr r) s).cellTransition r c = transition s.cur[r] s.nextSample c := by
  rw [perform_scanr h]
  simp [State.cellTransition]

theorem cur_scanr {p : Config.Params} (h : p.delayMode = .exact) (r : Row) (s : State) :
    (perform p (.scanr r) s).cur[r] = s.nextSample := by
  rw [perform_scanr h]
  simp

/-- Settles O20: the second scan's previous snapshot is the first one's sample. -/
theorem eachEdgeIsReportedOnce : Obligations.EachEdgeIsReportedOnce := by
  intro r s s1 s2 rest hs
  set t := perform Config.params (.scanr r) s with ht
  have h1 : s.nextSample = s1 := by simp [State.nextSample, hs]
  have h2 : t.nextSample = s2 := by
    rw [ht, perform_scanr params_exact]
    simp [State.nextSample, hs]
  have hcur : t.cur[r] = s1 := by rw [ht, cur_scanr params_exact, h1]
  have hu : ∀ c, (perform Config.params (.scanr r) t).cellTransition r c = transition s1 s2 c := by
    intro c
    rw [cellTransition_scanr params_exact, hcur, h2]
  refine ⟨t, _, exec_eq_perform _ s, exec_eq_perform _ t, fun c => ?_, hu, fun c hc => ?_, ?_⟩
  · rw [ht, cellTransition_scanr params_exact, h1]
  · rw [hu, transition_eq_none_iff, hc]
  · rintro rfl
    rw [perform_scanr params_exact]
    simp [State.rowChanged, changed, hcur, h2]

/-- Settles O21: from an all-released snapshot a bit can only fall. -/
theorem firstScanReportsNoRelease : Obligations.FirstScanReportsNoRelease := by
  intro r s hs
  refine ⟨_, exec_eq_perform _ s, fun c => ?_⟩
  have hbit : (0x3F : RowState).getLsbD c.val = true := by revert c; decide
  rw [cellTransition_scanr params_exact, hs, transition_eq_pressed_iff, Ne, transition_eq_released_iff,
    hbit]
  simp

/-- Settles O22: the row's snapshots are equal, so nothing changed and no cell has a transition. -/
theorem unstrobedRowReadsUnchanged : Obligations.UnstrobedRowReadsUnchanged := by
  intro r s hs hr
  obtain ⟨hc, hp⟩ := hs r hr
  have same : s.cur[r] = s.prev[r] := hc.trans hp.symm
  refine ⟨⟨_, exec_rchg r s, ?_⟩, fun c => ⟨_, exec_eq_perform _ s, ?_⟩⟩
  · rw [State.finishReply_rsp, State.respond_rsp, changedCode, same]
    simp
  · rw [perform_ctrn, State.finishReply_rsp, State.respond_rsp, transitionResponse, same]
    cases s.prev[r].getLsbD c.val <;> rfl

end Sys2Proof.Machine
end

section
/-! The transmitter's statements: the frame as a number (30_encoding.md R72), SENDB's waveform and
what a receiver makes of it (40_ps2_transmitter.md R101 to R108). -/

namespace Sys2Proof.Machine

open Sys2Proof

/-! ## The frame -/

/-- The frame as a number, bit by bit: stop, parity, data, start (R72). -/
theorem getLsbD_frame11_eq (v : Byte) (i : Nat) :
    (frame11 v).getLsbD i =
      if i < 1 then (0#1).getLsbD i
      else if i - 1 < 8 then v.getLsbD (i - 1)
      else if i - 1 - 8 < 1 then (BitVec.ofBool (par v)).getLsbD (i - 1 - 8)
      else (1#1).getLsbD (i - 1 - 8 - 1) := by
  have append : (frame11 v).getLsbD i =
      BitVec.getLsbD (w := 1 + 1 + 8 + 1) (1#1 ++ BitVec.ofBool (par v) ++ v ++ 0#1) i := rfl
  rw [append]
  simp only [BitVec.getLsbD_append]

theorem getLsbD_frame11 (v : Byte) (k : Fin 11) :
    (frame11 v).getLsbD k.val = (frameBits v).getD k.val true := by
  obtain ⟨k, hk⟩ := k
  rw [getLsbD_frame11_eq]
  interval_cases k <;> simp [frameBits]

theorem frame11_eq_or (v : Byte) :
    frame11 v = (1 <<< 10) ||| ((BitVec.ofBool (par v)).setWidth 11 <<< 9) |||
      (v.setWidth 11 <<< 1) := by
  apply BitVec.eq_of_getLsbD_eq
  intro i hi
  rw [getLsbD_frame11_eq]
  interval_cases i <;> simp

theorem extract_frame11 (v : Byte) : (frame11 v).extractLsb' 1 8 = v := by
  apply BitVec.eq_of_getLsbD_eq
  intro i hi
  rw [BitVec.getLsbD_extractLsb', getLsbD_frame11_eq]
  interval_cases i <;> simp

/-- The bits of a byte, least significant first, are the byte. -/
theorem ofBoolListLE_bits (v : Byte) :
    BitVec.ofBoolListLE [v.getLsbD 0, v.getLsbD 1, v.getLsbD 2, v.getLsbD 3, v.getLsbD 4,
      v.getLsbD 5, v.getLsbD 6, v.getLsbD 7] = v := by
  apply BitVec.eq_of_getLsbD_eq
  intro i hi
  simp only [List.length_cons, List.length_nil] at hi
  interval_cases i <;> simp [BitVec.ofBoolListLE]

theorem count_true_cons (b : Bool) (bs : List Bool) :
    (b :: bs).count true = bs.count true + b.toNat := by
  cases b <;> simp

/-- Data and parity of a frame hold an odd number of ones (R71, R72). -/
theorem count_frame_odd (v : Byte) :
    [v.getLsbD 0, v.getLsbD 1, v.getLsbD 2, v.getLsbD 3, v.getLsbD 4, v.getLsbD 5, v.getLsbD 6,
      v.getLsbD 7, par v].count true % 2 = 1 := by
  have odd := popcount_add_par_odd v
  rw [popcount_eq_sum_bits] at odd
  simp only [count_true_cons, List.count_nil]
  omega

theorem decodeFrame_frameBits (v : Byte) : decodeFrame (frameBits v) = some v := by
  rw [frameBits, decodeFrame, if_pos ⟨rfl, rfl, count_frame_odd v⟩, ofBoolListLE_bits]

theorem isSome_decodeFrame_iff (f : Fin 11 → Level) :
    (decodeFrame (List.ofFn f)).isSome = true ↔ f 0 = false ∧ f 10 = true ∧
      ([f 1, f 2, f 3, f 4, f 5, f 6, f 7, f 8, f 9].count true) % 2 = 1 := by
  rw [show List.ofFn f = [f 0, f 1, f 2, f 3, f 4, f 5, f 6, f 7, f 8, f 9, f 10] by
    simp [List.ofFn_succ], decodeFrame]
  split <;> simp_all

/-- Settles O24: `frame11` and the receiver's check, bit by bit. -/
theorem frameNumberIsTheFrame : Obligations.FrameNumberIsTheFrame := by
  refine ⟨fun v => ⟨frame11_eq_or v, getLsbD_frame11 v, getLsbD_frame11 v 0, getLsbD_frame11 v 10,
    extract_frame11 v, decodeFrame_frameBits v⟩, isSome_decodeFrame_iff, ?_⟩
  decide

/-! ## The events of SENDB -/

/-- The byte lies below the operation's bits, so `|||` adds it. -/
theorem encode_sendb (v : Byte) : encode (.sendb v) = 0x5000 + v.setWidth 16 := by
  rw [encode]
  refine (BitVec.add_eq_or_of_and_eq_zero _ _ ?_).symm
  apply BitVec.eq_of_getLsbD_eq
  intro i hi
  interval_cases i <;> simp

/-- Settles O25: SENDB's events are `frameEvents`. -/
theorem sendbMakesTheFrame : Obligations.SendbMakesTheFrame := by
  refine ⟨encode_sendb, fun v s => ?_⟩
  rw [exec_eq_perform, perform_sendb params_exact]
  rfl

theorem eventsSince_of_trace {s t : State} {es : List Event} (h : t.trace = s.trace ++ es) :
    eventsSince s t = es := by
  rw [eventsSince, h, List.drop_left]

theorem eventsSince_sendb (v : Byte) (s : State) :
    eventsSince s (perform Config.params (.sendb v) s) =
      frameEvents s.time v ++ [⟨s.time + 660, .done⟩] :=
  eventsSince_of_trace (by rw [perform_sendb params_exact, List.append_assoc])

/-- Seen from its start, a frame does not depend on when it starts. -/
theorem relativeTo_frameEvents (t : Nat) (v : Byte) :
    relativeTo t (frameEvents t v) = frameEvents 0 v := by
  simp [relativeTo, frameEvents, List.map_flatMap, Nat.add_assoc]

/-- Settles O28: seen from the start, the events are those of a frame that starts at 0. -/
theorem transmitterKeepsNothingBetweenBytes : Obligations.TransmitterKeepsNothingBetweenBytes := by
  intro v s s'
  have shifted : ∀ s : State, relativeTo s.time (eventsSince s (perform Config.params (.sendb v) s)) =
      frameEvents 0 v ++ [⟨660, .done⟩] := by
    intro s
    rw [eventsSince_sendb, relativeTo, List.map_append]
    exact congrArg₂ _ (relativeTo_frameEvents s.time v) (by simp)
  exact ⟨_, _, exec_eq_perform _ s, exec_eq_perform _ s', (shifted s).trans (shifted s').symm⟩

/-! ## What a receiver makes of a frame -/

/-- A frame on an idle bus is recovered as its byte, and the bus is idle after it (R107). -/
theorem see_frameEvents {x : Receiver} (hc : x.clk = true) (hb : x.bits = []) (t : Nat) (v : Byte) :
    (frameEvents t v).foldl Receiver.see x =
      { x with data := true, bytes := x.bytes ++ [some v] } := by
  simpa [frameEvents, List.range_succ, Receiver.see, Receiver.fall, hc, hb, Config.nSlots, frameBits]
    using decodeFrame_frameBits v

/-- Settles O27: the frame on an idle bus; `done` is not on the lines. -/
theorem receiverRecoversTheByte : Obligations.ReceiverRecoversTheByte := by
  intro v s
  refine ⟨_, exec_eq_perform _ s, ?_⟩
  rw [eventsSince_sendb, received, List.foldl_append, see_frameEvents rfl rfl]
  rfl

end Sys2Proof.Machine
end

section
/-! The trace as a record of the lines (00_scope.md R9): the events since the last reset, and the
levels they tell; SENDB's waveform (40_ps2_transmitter.md R102). -/

namespace Sys2Proof.Machine

open Sys2Proof

/-! ## The events since the last reset -/

theorem sinceReset_append (tr : List Event) {es : List Event} (h : ∀ e ∈ es, e.kind ≠ .reset) :
    sinceReset (tr ++ es) = sinceReset tr ++ es := by
  have none : es.any (·.kind == .reset) = false := by simpa using h
  induction tr with
  | nil =>
    cases es with
    | nil => rfl
    | cons e es =>
      rw [List.any_cons, Bool.or_eq_false_iff] at none
      simp [sinceReset, none.2, h e List.mem_cons_self]
  | cons e tr ih =>
    simp only [List.cons_append, sinceReset, List.any_append, none, Bool.or_false, ih]
    split
    · rfl
    · split <;> rfl

theorem sinceReset_append_reset (tr : List Event) (now : Nat) :
    sinceReset (tr ++ [⟨now, .reset⟩]) = [] := by
  induction tr with
  | nil => rfl
  | cons e tr ih => simp [sinceReset, ih]

/-! ## Levels -/

theorem levelAt_append (l : Line) (tr : List Event) {es : List Event} (t : Nat)
    (h : ∀ e ∈ es, e.kind ≠ .reset) :
    levelAt l (tr ++ es) t =
      (es.filter (·.time ≤ t)).foldl (fun v e => e.level l v) (levelAt l tr t) := by
  rw [levelAt, sinceReset_append tr h, List.filter_append, List.foldl_append]
  rfl

/-- With no event ahead of the present, the level of the present is that of the future. -/
theorem levelAt_of_chronological {s : State} (h : Chronological s) (l : Line) {t : Nat}
    (ht : s.time ≤ t) : levelAt l s.trace t = levelAt l s.trace s.time := by
  have all : ∀ u, s.time ≤ u →
      (sinceReset s.trace).filter (·.time ≤ u) = sinceReset s.trace := fun u hu =>
    List.filter_eq_self.mpr fun e he => decide_eq_true ((h.2 e he).trans hu)
  rw [levelAt, levelAt, all t ht, all s.time le_rfl]

/-- From a true trace the events that follow start from the latch. -/
theorem levelAt_append_of_true {s : State} (hc : Chronological s) (ha : TraceAgrees s) (l : Line)
    {es : List Event} (h : ∀ e ∈ es, e.kind ≠ .reset) {t : Nat} (ht : s.time ≤ t) :
    levelAt l (s.trace ++ es) t =
      (es.filter (·.time ≤ t)).foldl (fun v e => e.level l v) (s.latch l) := by
  rw [levelAt_append l s.trace t h, levelAt_of_chronological hc l ht, ha l]

/-! ## The waveform of a frame -/

/-- The first `n` slots of the frame of `v` that starts at `t0`. -/
def frameSlots (t0 : Nat) (v : Byte) (n : Nat) : List Event :=
  (List.range n).flatMap (fun k =>
    [⟨t0 + 60 * k, .setLine .data ((frameBits v).getD k true)⟩,
     ⟨t0 + 60 * k + 15, .setLine .clk false⟩,
     ⟨t0 + 60 * k + 45, .setLine .clk true⟩])

theorem frameEvents_eq_frameSlots (t0 : Nat) (v : Byte) : frameEvents t0 v = frameSlots t0 v 11 := rfl

theorem frameSlots_succ (t0 : Nat) (v : Byte) (n : Nat) :
    frameSlots t0 v (n + 1) = frameSlots t0 v n ++
      [⟨t0 + 60 * n, .setLine .data ((frameBits v).getD n true)⟩,
       ⟨t0 + 60 * n + 15, .setLine .clk false⟩, ⟨t0 + 60 * n + 45, .setLine .clk true⟩] := by
  simp [frameSlots, List.range_succ]

/-- Slot by slot, `data` holds the level of the last slot that has begun. -/
theorem data_frameSlots (t0 : Nat) (v : Byte) (n d : Nat) (x : Level) :
    ((frameSlots t0 v n).filter (·.time ≤ t0 + d)).foldl (fun v e => e.level .data v) x =
      if n = 0 then x else (frameBits v).getD (min (d / 60) (n - 1)) true := by
  induction n with
  | zero => rfl
  | succ n ih =>
    rw [frameSlots_succ, List.filter_append, List.foldl_append, ih]
    by_cases hd : 60 * n ≤ d
    · have hmin : min (d / 60) n = n := by omega
      by_cases h15 : 60 * n + 15 ≤ d <;> by_cases h45 : 60 * n + 45 ≤ d <;>
        simp [Nat.add_assoc, hd, h15, h45, Event.level, hmin]
    · have h15 : ¬ 60 * n + 15 ≤ d := by omega
      have h45 : ¬ 60 * n + 45 ≤ d := by omega
      have hn : n ≠ 0 := by rintro rfl; omega
      have hmin : min (d / 60) n = min (d / 60) (n - 1) := by omega
      simp [Nat.add_assoc, hd, h15, h45, hn, hmin]

/-- Slot by slot, `clk` falls at phase 15 and rises at phase 45. -/
theorem clk_frameSlots (t0 : Nat) (v : Byte) (n d : Nat) :
    ((frameSlots t0 v n).filter (·.time ≤ t0 + d)).foldl (fun v e => e.level .clk v) true =
      if d < 60 * n then !(decide (15 ≤ d % 60) && decide (d % 60 < 45)) else true := by
  induction n with
  | zero => rfl
  | succ n ih =>
    rw [frameSlots_succ, List.filter_append, List.foldl_append, ih]
    by_cases hd : 60 * n ≤ d
    · rw [if_neg (show ¬ d < 60 * n by omega)]
      by_cases hend : d < 60 * (n + 1)
      · have hmod : d % 60 = d - 60 * n := by omega
        rw [if_pos hend, hmod]
        by_cases h15 : 60 * n + 15 ≤ d <;> by_cases h45 : 60 * n + 45 ≤ d <;>
          simp [Nat.add_assoc, hd, h15, h45, Event.level] <;> omega
      · have h15 : 60 * n + 15 ≤ d := by omega
        have h45 : 60 * n + 45 ≤ d := by omega
        simp [Nat.add_assoc, hd, h15, h45, Event.level, hend]
    · have h15 : ¬ 60 * n + 15 ≤ d := by omega
      have h45 : ¬ 60 * n + 45 ≤ d := by omega
      simp [Nat.add_assoc, hd, h15, h45, show d < 60 * n by omega, show d < 60 * (n + 1) by omega]

theorem frameEvents_ne_reset (t0 : Nat) (v : Byte) : ∀ e ∈ frameEvents t0 v, e.kind ≠ .reset := by
  intro e he
  simp only [frameEvents, List.mem_flatMap, List.mem_cons, List.not_mem_nil, or_false] at he
  obtain ⟨k, -, rfl | rfl | rfl⟩ := he <;> simp

/-- `done` is not on the lines. -/
theorem foldl_level_done (l : Line) (t0 t : Nat) (x : Level) :
    ([(⟨t0, .done⟩ : Event)].filter (·.time ≤ t)).foldl (fun v e => e.level l v) x = x := by
  by_cases h : t0 ≤ t <;> simp [h, Event.level]

/-- Settles O26: after a trace that tells the latches, the levels are those of the frame's slots. -/
theorem waveformInClosedForm : Obligations.WaveformInClosedForm := by
  intro v s hc ha hclk
  set t := perform Config.params (.sendb v) s with ht
  have trace : t.trace = s.trace ++ (frameSlots s.time v 11 ++ [⟨s.time + 660, .done⟩]) := by
    rw [ht, perform_sendb params_exact, List.append_assoc, frameEvents_eq_frameSlots]
  have noReset : ∀ e ∈ frameSlots s.time v 11 ++ [⟨s.time + 660, .done⟩], e.kind ≠ .reset := by
    intro e he
    rcases List.mem_append.mp he with h | h
    · exact frameEvents_ne_reset s.time v e h
    · simp [List.mem_singleton.mp h]
  have levels : ∀ d l, levelAt l t.trace (s.time + d) =
      ((frameSlots s.time v 11).filter (·.time ≤ s.time + d)).foldl (fun v e => e.level l v)
        (s.latch l) := by
    intro d l
    rw [trace, levelAt_append_of_true hc ha l noReset (Nat.le_add_right _ _), List.filter_append,
      List.foldl_append, foldl_level_done]
  have data : ∀ d, levelAt .data t.trace (s.time + d) = (frameBits v).getD (min (d / 60) 10) true := by
    intro d
    rw [levels, data_frameSlots]
    rfl
  have clk : ∀ d, levelAt .clk t.trace (s.time + d) =
      if d < 660 then !(decide (15 ≤ d % 60) && decide (d % 60 < 45)) else true := by
    intro d
    rw [levels, show s.latch .clk = true from hclk, clk_frameSlots]
  refine ⟨t, exec_eq_perform _ s, fun d hd => ⟨?_, ?_⟩, fun d hd => ⟨?_, ?_⟩⟩
  · rw [data, show min (d / 60) 10 = d / 60 by omega]
  · rw [clk, if_pos hd]
  · rw [data, show min (d / 60) 10 = 10 by omega]
    rfl
  · rw [clk, if_neg (by omega)]

end Sys2Proof.Machine
end

section
/-! Invariants of every step (10_state.md R22 to R29, 00_scope.md R9, 20_memory.md R57): what holds
between operations, and the trace as a record of the past. -/

namespace Sys2Proof.Machine

open Sys2Proof

variable {p : Config.Params}

/-! ## What operations leave behind -/

/-- `BetweenOps` less what it says of `inflight`: what an operation, run whole, hands on. -/
def Settled (p : Config.Params) (s : State) : Prop :=
  LinesReleased s ∧ BudgetBounded s ∧ UnstrobedInitial p s

theorem betweenOps_iff (s : State) : BetweenOps p s ↔ AtRest s ∧ Settled p s := Iff.rfl

theorem toNat_budgetAfter_le (b : BitVec 12) (n : Nat) : (budgetAfter p b n).toNat ≤ b.toNat := by
  rw [budgetAfter, BitVec.toNat_ofNat]
  exact (Nat.mod_le _ _).trans (Nat.sub_le _ _)

/-- A released strobe, written once more, leaves all released. -/
theorem put_true_released {b : Bank Level} (h : ∀ q : Row, b[q] = true) (r q : Row) :
    (put b r true)[q] = true := by
  rw [put_getElem]
  split
  · rfl
  · exact h q

/-- A row that is marked as strobed may hold anything; the others are as they were (R29). -/
theorem unstrobedInitial_put {s t : State} {r : Row} {c v : RowState} (h : UnstrobedInitial p s)
    (hs : t.strobed = put s.strobed r true) (hc : t.cur = put s.cur r c)
    (hp : t.prev = put s.prev r v) : UnstrobedInitial p t := by
  intro q hq
  rw [hs, put_getElem] at hq
  rw [hc, hp, put_getElem, put_getElem]
  split at hq
  · cases hq
  · next hne =>
    rw [if_neg hne, if_neg hne]
    exact h q hq

theorem settled_scan {s t : State} {r : Row} {c v : RowState} (h : Settled p s)
    (hrow : t.row = put s.row r true) (hs : t.strobed = put s.strobed r true)
    (hc : t.cur = put s.cur r c) (hp : t.prev = put s.prev r v) (hclk : t.clk = true)
    (hdata : t.data = true) (hb : t.budget.toNat ≤ 4000) : Settled p t := by
  obtain ⟨⟨hr, -, -⟩, -, hu⟩ := h
  exact ⟨⟨fun q => hrow ▸ put_true_released hr r q, hclk, hdata⟩, hb, unstrobedInitial_put hu hs hc hp⟩

/-- An operation that leaves the scanner alone, releases the lines and does not raise the budget. -/
theorem settled_send {s t : State} (h : Settled p s) (hrow : t.row = s.row)
    (hs : t.strobed = s.strobed) (hc : t.cur = s.cur) (hp : t.prev = s.prev)
    (hclk : t.clk = true) (hdata : t.data = true) (hb : t.budget.toNat ≤ s.budget.toNat) :
    Settled p t := by
  obtain ⟨⟨hr, -, -⟩, hbud, hu⟩ := h
  refine ⟨⟨by rwa [hrow], hclk, hdata⟩, hb.trans hbud, fun q hq => ?_⟩
  rw [hc, hp]
  exact hu q (hs ▸ hq)

theorem ite_true_of {P : Prop} [Decidable P] {b : Bool} (h : b = true) :
    (if P then b else true) = true := by
  rw [h, ite_self]

theorem settled_drow (h : p.delayMode = .exact) (r : Row) {s : State} (hs : Settled p s) :
    Settled p (perform p (.drow r) s) := by
  obtain ⟨-, hclk, hdata⟩ := hs.1
  rw [perform_drow h]
  exact settled_scan hs rfl rfl rfl rfl (ite_true_of hclk) (ite_true_of hdata)
    (toNat_budgetAfter_le 4000 _)

/-- Every operation, run whole, leaves the lines released, the budget at most 4000, and the rows
that were not strobed at their initial values. -/
theorem settled_perform (h : p.delayMode = .exact) (i : Instr) {s : State} (hs : Settled p s) :
    Settled p (perform p i s) := by
  obtain ⟨hr, hclk, hdata⟩ := hs.1
  cases i with
  | init =>
    rw [perform_init]
    refine ⟨⟨fun q => ?_, hclk, hdata⟩, hs.2.1, fun q _ => ⟨?_, ?_⟩⟩ <;> simp
  | scanr r =>
    rw [perform_scanr h]
    exact settled_scan hs rfl rfl rfl rfl hclk hdata hs.2.1
  | rchg r => exact hs
  | ctrn r c => exact hs
  | xlat r c => exact hs
  | sendb v =>
    rw [perform_sendb h]
    exact settled_send hs rfl rfl rfl rfl rfl rfl le_rfl
  | mirb v =>
    rw [perform_mirb h]
    exact hs
  | dly n =>
    rw [perform_dly h]
    exact hs
  | emitb v =>
    rw [perform_emitb h]
    exact settled_send hs rfl rfl rfl rfl rfl rfl (toNat_budgetAfter_le _ _)
  | emitk k code =>
    rw [perform_emitk h]
    exact settled_send hs rfl rfl rfl rfl (ite_true_of hclk) (ite_true_of hdata)
      (toNat_budgetAfter_le _ _)
  | drow r => exact settled_drow h r hs
  | run => exact hs

theorem settled_reset (p : Config.Params) (now : Nat) (s : State) : Settled p (s.applyReset p now) := by
  refine ⟨⟨fun q => ?_, rfl, rfl⟩, Nat.zero_le _, fun q _ => ⟨?_, ?_⟩⟩ <;>
    simp [State.resetWith]

/-! ## Between operations -/

theorem complete_inflight (i : Instr) (s : State) : (complete i s).inflight = s.inflight := by
  cases i <;> rfl

theorem atRest_perform (i : Instr) {s : State} (h : s.inflight = none) :
    AtRest (perform p i s) := by
  by_cases hi : i = .run
  · subst hi
    exact .inr ⟨rfl, _, rfl⟩
  · refine .inl ?_
    rw [perform_eq hi, complete_inflight, (runActs_keeps _ s).1, h]

/-- A turn that begins is DROW of the present row, then the next row (R166). -/
theorem turn_eq {s : State} (ha : AtRest s) :
    s.turn p = { (runActs p (scriptDrow p s.rowIdx) s).advanceRow with
      inflight := some ⟨.run, (s.inflight.map Flight.start).getD s.time, []⟩ } := by
  rw [State.turn, turnActs_atRest p ha, runActs_turn]

theorem atRest_turn {s : State} (hm : s.mode = .run) : AtRest (s.turn p) :=
  .inr ⟨(turn_keeps s).1.trans hm, _, rfl⟩

theorem settled_turn (h : p.delayMode = .exact) {s : State} (ha : AtRest s) (hs : Settled p s) :
    Settled p (s.turn p) := by
  have drow : Settled p (runActs p (scriptDrow p s.rowIdx) s) := settled_drow h s.rowIdx hs
  rw [turn_eq ha]
  exact drow

/-- Between operations the work is a turn in mode RUN, an idle microsecond, or a word taken with
nothing in flight. -/
theorem work_cases {s : State} (ha : AtRest s) :
    (s.work = .turn ∧ s.mode = .run) ∨ s.work = .idle ∨
      ∃ w rest, s.work = .accept w rest ∧ s.inflight = none := by
  rcases ha with hf | ⟨hm, t, hf⟩
  · cases hm : s.mode with
    | run => exact .inl ⟨work_turn hm (.inl hf), rfl⟩
    | cmd =>
      rcases hc : s.client with _ | ⟨⟨_ | n, w⟩, rest⟩
      · exact .inr (.inl (by simp [State.work, hf, hm, hc]))
      · exact .inr (.inr ⟨w, rest, by simp [State.work, hf, hm, hc], hf⟩)
      · exact .inr (.inl (by simp [State.work, hf, hm, hc]))
  · exact .inl ⟨work_turn hm (.inr ⟨hm, t, hf⟩), hm⟩

theorem betweenOps_undisturbed {s t : State} (h : BetweenOps Config.params s)
    (ht : s.undisturbed Config.params exec = .next t) : BetweenOps Config.params t := by
  obtain ⟨ha, hs⟩ := (betweenOps_iff s).mp h
  rcases work_cases ha with ⟨hw, hm⟩ | hw | ⟨w, rest, hw, hf⟩
  · cases (undisturbed_turn hw).symm.trans ht
    exact ⟨atRest_turn hm, settled_turn params_exact ha hs⟩
  · cases (undisturbed_idle hw).symm.trans ht
    exact ⟨ha, hs⟩
  · cases hd : decode w with
    | error why => cases (undisturbed_reserved hw hd).symm.trans ht
    | ok i =>
      obtain rfl := eq_perform_of_exec ((undisturbed_accept hw hd).symm.trans ht)
      exact ⟨atRest_perform i hf, settled_perform (s := { s with client := rest }) params_exact i hs⟩

theorem betweenOps_reset (p : Config.Params) (now : Nat) (s : State) :
    BetweenOps p (s.applyReset p now) := ⟨.inl rfl, settled_reset p now s⟩

/-- Settles O54: a step is a reset, which leaves the reset values, or the work undisturbed, each
kind of which keeps the invariant. -/
theorem everyStepKeepsBetweenOps : Obligations.EveryStepKeepsBetweenOps := by
  intro s t h ht
  rcases step_cases ht with ⟨r, rs, -, -, rfl⟩ | ⟨r, rs, u, -, -, -, -, rfl⟩ | ⟨hu, -⟩
  · exact betweenOps_reset _ _ s
  · exact betweenOps_reset _ _ _
  · exact betweenOps_undisturbed h hu

/-! ## The trace as a record of the past -/

/-- The trace is in order, not ahead of the present, and tells every latch. -/
def TraceTrue (s : State) : Prop := Chronological s ∧ TraceAgrees s

/-- Events of the present microsecond that move the latches as they say, and time that does not run
back, keep the trace true. -/
theorem traceTrue_extend {s t : State} (h : TraceTrue s) {es : List Event}
    (htr : t.trace = s.trace ++ es) (he : ∀ e ∈ es, e.time = s.time ∧ e.kind ≠ .reset)
    (hle : s.time ≤ t.time)
    (hl : ∀ l, t.latch l = es.foldl (fun v e => e.level l v) (s.latch l)) : TraceTrue t := by
  obtain ⟨hc, ha⟩ := h
  have since : sinceReset t.trace = sinceReset s.trace ++ es := by
    rw [htr, sinceReset_append _ fun e h => (he e h).2]
  refine ⟨⟨?_, ?_⟩, fun l => ?_⟩
  · rw [since, List.pairwise_append]
    refine ⟨hc.1, List.pairwise_of_forall_mem_list fun a ha b hb => ?_, fun a ha b hb => ?_⟩
    · rw [(he a ha).1, (he b hb).1]
    · rw [(he b hb).1]
      exact hc.2 a ha
  · intro e h
    rw [since] at h
    rcases List.mem_append.mp h with h | h
    · exact (hc.2 e h).trans hle
    · exact (he e h).1.le.trans hle
  · have all : es.filter (·.time ≤ t.time) = es :=
      List.filter_eq_self.mpr fun e h => decide_eq_true ((he e h).1.le.trans hle)
    rw [htr, levelAt_append_of_true hc ha l (fun e h => (he e h).2) hle, all, hl]

/-- A change that shows no event and moves no latch keeps the trace true. -/
theorem traceTrue_silent {s t : State} (h : TraceTrue s) (htr : t.trace = s.trace)
    (hle : s.time ≤ t.time) (hl : ∀ l, t.latch l = s.latch l) : TraceTrue t :=
  traceTrue_extend h (es := []) (by rw [htr, List.append_nil]) (by simp) hle hl

theorem traceTrue_emit {s : State} (h : TraceTrue s) {k : EventKind} (hr : k ≠ .reset)
    (hk : ∀ l v, (⟨s.time, k⟩ : Event).level l v = v) : TraceTrue (s.emit k) := by
  refine traceTrue_extend h (es := [⟨s.time, k⟩]) rfl (by simpa using hr) le_rfl fun l => ?_
  rw [List.foldl_cons, List.foldl_nil, hk]
  cases l <;> rfl

theorem latch_setLine (s : State) (l m : Line) (v : Level) :
    (s.setLine l v).latch m = if l = m then v else s.latch m := by
  cases l <;> cases m <;> simp [State.latch, eq_comm]

theorem traceTrue_setLine {s : State} (h : TraceTrue s) (l : Line) (v : Level) :
    TraceTrue (s.setLine l v) :=
  traceTrue_extend h (es := [⟨s.time, .setLine l v⟩]) (by simp) (by simp) (by simp) fun m => by
    simp [latch_setLine, Event.level]

theorem traceTrue_wait {s : State} (h : TraceTrue s) (n : Nat) : TraceTrue (s.wait p n) := by
  have hle := (s.time.le_add_right n).trans (wait_time_le (p := p) n s)
  refine traceTrue_silent h ?_ hle fun l => ?_ <;> rw [wait_eq]
  cases l <;> rfl

theorem traceTrue_prim (a : Prim) {s : State} (h : TraceTrue s) : TraceTrue (a.run p s) := by
  cases a with
  | setLine l v => exact traceTrue_setLine h l v
  | wait n => exact traceTrue_wait h n
  | waitBudget => exact traceTrue_wait h _
  | delay n => exact traceTrue_silent h rfl (Nat.le_add_right _ _) fun l => by cases l <;> rfl
  | capture r =>
    rw [Prim.run, State.capture, sampleCols_eq]
    have sampled : TraceTrue { s with
        samples := s.samples.tail
        draws := s.draws + s.sampleDraws
        trace := s.trace ++ [⟨s.time, .sample r s.nextSample⟩] } :=
      traceTrue_emit (s := { s with samples := s.samples.tail, draws := s.draws + s.sampleDraws })
        (k := .sample r s.nextSample) h (by simp) fun _ _ => rfl
    exact traceTrue_silent (traceTrue_setLine sampled (.row r) true) rfl le_rfl fun l => by
      cases l <;> rfl
  | clearRow r => exact traceTrue_silent h rfl le_rfl fun l => by cases l <;> rfl
  | loadBudget => exact h
  | charge => exact h
  | mirror b => exact traceTrue_emit h (by simp) fun _ _ => rfl
  | ind e => exact traceTrue_emit h (by simp) fun _ _ => rfl
  | replyChanged r => exact traceTrue_emit (s := { s with rsp := _ }) h (by simp) fun _ _ => rfl
  | replyTransition r c => exact traceTrue_emit (s := { s with rsp := _ }) h (by simp) fun _ _ => rfl
  | replyEntry r c => exact traceTrue_emit (s := { s with rsp := _ }) h (by simp) fun _ _ => rfl
  | nextRow => exact h

theorem traceTrue_runPrims (as : List Prim) {s : State} (h : TraceTrue s) :
    TraceTrue (runPrims p as s) := by
  induction as generalizing s with
  | nil => exact h
  | cons a as ih => exact ih (traceTrue_prim a h)

theorem traceTrue_runActs (as : List Act) {s : State} (h : TraceTrue s) :
    TraceTrue (runActs p as s) := by
  induction as generalizing s with
  | nil => exact h
  | cons a as ih =>
    cases a with
    | prim a => exact ih (traceTrue_prim a h)
    | columns r => exact ih (traceTrue_runPrims _ h)

theorem traceTrue_complete (i : Instr) {s : State} (h : TraceTrue s) : TraceTrue (complete i s) := by
  have silent : TraceTrue s.finishSilent :=
    traceTrue_emit (s := { s with rsp := _, draws := _ }) h (by simp) fun _ _ => rfl
  have reply : TraceTrue s.finishReply := traceTrue_emit h (by simp) fun _ _ => rfl
  cases i with
  | run => exact h
  | rchg r => exact reply
  | ctrn r c => exact reply
  | xlat r c => exact reply
  | _ => exact silent

theorem traceTrue_perform (i : Instr) {s : State} (h : TraceTrue s) : TraceTrue (perform p i s) := by
  by_cases hi : i = .run
  · subst hi
    exact h
  · rw [perform_eq hi]
    exact traceTrue_complete i (traceTrue_runActs _ h)

theorem traceTrue_reset (p : Config.Params) (now : Nat) (s : State) :
    TraceTrue (s.applyReset p now) := by
  have since := sinceReset_append_reset s.trace now
  refine ⟨⟨?_, ?_⟩, fun l => ?_⟩
  · simp [since]
  · simp [since]
  · rw [levelAt, State.applyReset_trace, since]
    cases l <;> simp [State.latch, State.resetWith]

theorem traceTrue_undisturbed {s t : State} (h : TraceTrue s)
    (ht : s.undisturbed Config.params exec = .next t) : TraceTrue t := by
  rcases undisturbed_cases ht with ⟨f, -, rfl⟩ | ⟨-, rfl⟩ | ⟨-, rfl⟩ | ⟨w, rest, i, -, -, rfl⟩
  · exact traceTrue_complete f.op (traceTrue_runActs f.rest (s := { s with inflight := none }) h)
  · exact traceTrue_runActs (s.turnActs Config.params) h
  · exact traceTrue_silent h rfl (Nat.le_add_right _ _) fun l => by cases l <;> rfl
  · exact traceTrue_perform i (s := { s with client := rest }) h

/-- Settles O55: every primitive keeps the trace true, and a reset begins a record of its own. -/
theorem everyStepKeepsTheTraceTrue : Obligations.EveryStepKeepsTheTraceTrue := by
  intro s t hc ha ht
  rcases step_cases ht with ⟨r, rs, -, -, rfl⟩ | ⟨r, rs, u, -, -, -, -, rfl⟩ | ⟨hu, -⟩
  · exact traceTrue_reset _ _ s
  · exact traceTrue_reset _ _ _
  · exact traceTrue_undisturbed ⟨hc, ha⟩ hu

/-! ## The state after reset -/

/-- Settles O1: the values of `State.resetWith` with the machine's parameters. -/
theorem resetLeavesTheStatedValues : Obligations.ResetLeavesTheStatedValues := by
  refine ⟨by decide, rfl, rfl, rfl, rfl, rfl, rfl, ?_⟩
  change (if Config.autorun then Mode.run else Mode.cmd) = Mode.run ↔ _
  cases Config.autorun <;> simp

end Sys2Proof.Machine
end

section
/-! At most one strobe is low at a time (41_matrix_scanner.md R136): the plan of every operation,
and what each fine step does to it. -/

namespace Sys2Proof.Machine

open Sys2Proof

variable {p : Config.Params}

/-! ## Primitives that leave the strobes alone -/

/-- The primitive does not drive a strobe. -/
def Prim.strobeless : Prim → Bool
  | .setLine (.row _) _ => false
  | .capture _ => false
  | _ => true

/-- A primitive that does not drive a strobe is passed over by the plan. -/
theorem strobePlan_cons {a : Prim} (h : a.strobeless = true) (low : Option Row) (as : List Act) :
    strobePlan low (.prim a :: as) = strobePlan low as := by
  cases a with
  | setLine l v =>
    cases l with
    | row r => cases h
    | clk => rfl
    | data => rfl
  | capture r => cases h
  | _ => rfl

theorem strobePlan_append {as : List Prim} (h : ∀ a ∈ as, a.strobeless = true) (low : Option Row)
    (bs : List Act) : strobePlan low (as.map .prim ++ bs) = strobePlan low bs := by
  induction as with
  | nil => rfl
  | cons a as ih =>
    rw [List.map_cons, List.cons_append, strobePlan_cons (h a List.mem_cons_self),
      ih fun b hb => h b (List.mem_cons_of_mem a hb)]

theorem strobePlan_map {as : List Prim} (h : ∀ a ∈ as, a.strobeless = true) :
    strobePlan none (as.map .prim) = true := by
  rw [← List.append_nil (as.map Act.prim), strobePlan_append h]
  rfl

theorem strobeless_sendb (v : Byte) : ∀ a ∈ scriptSendb v, a.strobeless = true := by
  simp [scriptSendb, frameBits, scriptSlot, Prim.strobeless]

theorem strobeless_emitb (v : Byte) : ∀ a ∈ scriptEmitb p v, a.strobeless = true := by
  intro a ha
  simp only [scriptEmitb, List.mem_append] at ha
  rcases ha with (ha | ha) | ha
  · exact strobeless_sendb v a ha
  · revert a; simp [scriptMirb, Prim.strobeless]
  · rw [List.mem_singleton.mp ha]; rfl

theorem strobeless_emitk (k : Edge) (code : Code) :
    ∀ a ∈ scriptEmitk p k code, a.strobeless = true := by
  intro a ha
  obtain ⟨v, -, hv⟩ := List.mem_flatMap.mp ha
  exact strobeless_emitb v a hv

theorem strobeless_columns (r : Row) (prev cur : RowState) :
    ∀ a ∈ scriptColumns p r prev cur, a.strobeless = true := by
  intro a ha
  rw [scriptColumns_eq] at ha
  obtain ⟨k, -, hk⟩ := List.mem_flatMap.mp ha
  rcases List.mem_cons.mp hk with rfl | h
  · rfl
  · exact strobeless_emitk k.1 k.2 a h

/-! ## The plans of the operations -/

theorem strobePlan_drow (r : Row) (as : List Act) :
    strobePlan none (scriptDrow p r ++ as) = strobePlan none as := by
  simp [scriptDrow, scriptScanr, strobePlan]

/-- Every operation, once accepted, lowers one strobe at a time and releases it. -/
theorem strobePlan_script (i : Instr) : strobePlan none (script p i) = true := by
  cases i with
  | init => rfl
  | scanr r => simp [script, scriptScanr, strobePlan]
  | rchg r => rfl
  | ctrn r c => rfl
  | xlat r c => rfl
  | sendb v => exact strobePlan_map (strobeless_sendb v)
  | mirb v => rfl
  | dly n => rfl
  | emitb v => exact strobePlan_map (strobeless_emitb v)
  | emitk k code => exact strobePlan_map (strobeless_emitk k code)
  | drow r => exact (congrArg _ (List.append_nil _).symm).trans (strobePlan_drow r [])
  | run => rfl

theorem strobePlan_turn (r : Row) : strobePlan none (scriptTurn p r) = true := by
  rw [scriptTurn, strobePlan_drow]
  rfl

/-! ## What a primitive does to the strobes -/

/-- The strobe of `low`, and no other, is low. -/
def StrobeLow (s : State) (low : Option Row) : Prop := ∀ r : Row, s.row[r] = false ↔ low = some r

theorem strobeSafe_of_flight {s : State} {f : Flight} {low : Option Row} (hl : StrobeLow s low)
    (hf : s.inflight = some f) (hp : strobePlan low f.rest = true) : StrobeSafe s := by
  refine ⟨low, hl, ?_⟩
  rw [hf]
  exact hp

theorem strobeSafe_of_none {s : State} (hl : StrobeLow s none) (hf : s.inflight = none) :
    StrobeSafe s := by
  refine ⟨none, hl, ?_⟩
  rw [hf]

theorem wait_row (n : Nat) (s : State) : (s.wait p n).row = s.row := by rw [wait_eq]

theorem row_of_strobeless {a : Prim} (h : a.strobeless = true) (s : State) :
    (a.run p s).row = s.row := by
  cases a with
  | setLine l v =>
    cases l with
    | row r => cases h
    | clk => rfl
    | data => rfl
  | wait n => exact wait_row n s
  | waitBudget => exact wait_row _ s
  | capture r => cases h
  | _ => rfl

theorem strobeLow_put_false {b : Bank Level} (h : ∀ q : Row, b[q] = false ↔ (none : Option Row) = some q)
    (r q : Row) : (put b r false)[q] = false ↔ some r = some q := by
  rw [put_getElem]
  split
  · next e => simp [e]
  · next e =>
    rw [h q]
    simp [Ne.symm e]

theorem strobeLow_put_true {b : Bank Level} {low : Option Row}
    (h : ∀ q : Row, b[q] = false ↔ low = some q) {r : Row} (hr : low = none ∨ low = some r) (q : Row) :
    (put b r true)[q] = false ↔ (none : Option Row) = some q := by
  rw [put_getElem]
  split
  · simp
  · next e =>
    rw [h q]
    rcases hr with rfl | rfl
    · rfl
    · simp [Ne.symm e]

/-- A primitive that the plan allows leaves one strobe low at most, and the plan of the rest. -/
theorem strobe_prim (a : Prim) {s : State} {low : Option Row} {as : List Act} (hl : StrobeLow s low)
    (hp : strobePlan low (.prim a :: as) = true) :
    ∃ low', StrobeLow (a.run p s) low' ∧ strobePlan low' as = true := by
  by_cases hs : a.strobeless = true
  · rw [strobePlan_cons hs] at hp
    refine ⟨low, fun r => ?_, hp⟩
    rw [row_of_strobeless hs]
    exact hl r
  · cases a with
    | setLine l v =>
      cases l with
      | row r =>
        cases v with
        | false =>
          simp only [strobePlan, Bool.and_eq_true, Option.isNone_iff_eq_none] at hp
          obtain ⟨rfl, hp⟩ := hp
          exact ⟨some r, strobeLow_put_false hl r, hp⟩
        | true =>
          simp only [strobePlan, Bool.and_eq_true, Bool.or_eq_true, Option.isNone_iff_eq_none,
            beq_iff_eq] at hp
          exact ⟨none, strobeLow_put_true hl hp.1, hp.2⟩
      | clk => exact absurd rfl hs
      | data => exact absurd rfl hs
    | capture r =>
      simp only [strobePlan, Bool.and_eq_true, beq_iff_eq] at hp
      refine ⟨none, fun q => ?_, hp.2⟩
      rw [Prim.run, capture_eq]
      exact strobeLow_put_true hl (.inr hp.1) q
    | _ => exact absurd rfl hs

/-! ## Fine steps -/

theorem waitTime_row (n : Nat) (s : State) : (s.waitTime p n).2.row = s.row := by
  unfold State.waitTime
  cases p.delayMode <;> rfl

theorem complete_row (i : Instr) (s : State) : (complete i s).row = s.row := by cases i <;> rfl

theorem strobeSafe_advance {s : State} {f : Flight} {low : Option Row} (hl : StrobeLow s low)
    (hp : strobePlan low f.rest = true) : StrobeSafe (s.advance p f) := by
  unfold State.advance
  split
  case h_1 he =>
    rw [he] at hp
    obtain rfl := Option.isNone_iff_eq_none.mp hp
    split
    · exact strobeSafe_of_flight (s := s.withRest f _) hl rfl (strobePlan_turn s.rowIdx)
    · refine strobeSafe_of_none (fun r => ?_) (complete_inflight f.op _)
      rw [complete_row]
      exact hl r
  case h_2 r as he =>
    rw [he] at hp
    simp only [strobePlan, Bool.and_eq_true, Option.isNone_iff_eq_none] at hp
    obtain ⟨rfl, hp⟩ := hp
    refine strobeSafe_of_flight (s := s.withRest f _) hl rfl ?_
    exact (strobePlan_append (strobeless_columns r _ _) none as).trans hp
  case h_3 n as he =>
    rw [he] at hp
    refine strobeSafe_of_flight (low := low) (fun r => ?_) rfl hp
    rw [State.withRest_row, waitTime_row]
    exact hl r
  case h_4 as he =>
    rw [he] at hp
    refine strobeSafe_of_flight (low := low) (fun r => ?_) rfl hp
    rw [State.withRest_row, waitTime_row]
    exact hl r
  case h_5 as he =>
    rw [he] at hp
    exact strobeSafe_of_flight (s := s.withRest f as) hl rfl hp
  case h_6 n as he =>
    rw [he] at hp
    exact strobeSafe_of_flight (s := (s.pass 1).withRest f _) hl rfl hp
  case h_7 a as _ _ _ _ he =>
    rw [he] at hp
    obtain ⟨low', hl', hp'⟩ := strobe_prim (p := p) a hl hp
    exact strobeSafe_of_flight (s := (a.run p s).withRest f as) hl' rfl hp'

/-- An operation other than RUN is accepted with its whole script to do. -/
theorem accept_eq {i : Instr} (hi : i ≠ .run) (s : State) :
    s.accept p i = s.withRest ⟨i, s.time, []⟩ (script p i) := by
  cases i with
  | run => exact absurd rfl hi
  | _ => rfl

theorem strobeSafe_accept (i : Instr) {s : State} (hl : StrobeLow s none) :
    StrobeSafe (s.accept p i) := by
  by_cases hi : i = .run
  · subst hi
    exact strobeSafe_of_flight (s := s.startRun) hl rfl rfl
  · rw [accept_eq hi]
    exact strobeSafe_of_flight (s := s.withRest _ _) hl rfl (strobePlan_script i)

theorem strobeSafe_reset (p : Config.Params) (now : Nat) (s : State) :
    StrobeSafe (s.applyReset p now) :=
  strobeSafe_of_none (fun r => by simp [State.resetWith]) rfl

/-- A fine step is a reset, what the operation in flight does next, or, with none in flight, an
acceptance or an idle microsecond. -/
theorem microStep_cases {s t : State} (h : s.microStep p = .next t) :
    t = s.applyReset p s.time ∨ (∃ f, s.inflight = some f ∧ t = s.advance p f) ∨
      (s.inflight = none ∧ (t = s.startRun ∨ t = s.idle ∨
        ∃ rest i, t = ({ s with client := rest } : State).accept p i)) := by
  unfold State.microStep at h
  split at h
  · cases h
    exact .inl rfl
  · split at h
    · next f hf =>
      cases h
      exact .inr (.inl ⟨f, hf, rfl⟩)
    · next hf =>
      refine .inr (.inr ⟨hf, ?_⟩)
      split at h
      · cases h
        exact .inl rfl
      · next w rest hw =>
        split at h
        · next i hd =>
          cases h
          exact .inr (.inr ⟨rest, i, rfl⟩)
        · cases h
      · cases h
        exact .inr (.inl rfl)

/-- Settles O56: the plan of what is in flight tells which strobe is low, step by step, and every
plan that begins leaves none low. -/
theorem everyFineStepKeepsOneStrobeLow : Obligations.EveryFineStepKeepsOneStrobeLow := by
  rintro p s t ⟨low, hl, hplan⟩ ht
  rcases microStep_cases ht with rfl | ⟨f, hf, rfl⟩ | ⟨hf, h⟩
  · exact strobeSafe_reset p _ s
  · rw [hf] at hplan
    exact strobeSafe_advance hl hplan
  · rw [hf] at hplan
    subst hplan
    rcases h with rfl | rfl | ⟨rest, i, rfl⟩
    · exact strobeSafe_of_flight (s := s.startRun) hl rfl rfl
    · exact strobeSafe_of_none (s := s.idle) hl hf
    · exact strobeSafe_accept i (s := { s with client := rest }) hl

/-- Settles O2: the state after reset, base case of the step lemmas. -/
theorem resetSatisfiesTheInvariants : Obligations.ResetSatisfiesTheInvariants := by
  refine ⟨⟨.inl rfl, settled_reset Config.params 0 State.reset⟩, ?_, fun l => ?_,
    strobeSafe_reset Config.params 0 State.reset⟩
  · exact ⟨List.Pairwise.nil, fun e he => nomatch he⟩
  · cases l with
    | row r => revert r; decide
    | _ => rfl

end Sys2Proof.Machine
end

section
/-! An rst inside an operation (70_reset_and_hazards.md R230, R243): the events before it, then the
reset. -/

namespace Sys2Proof.Machine

open Sys2Proof

variable {p : Config.Params}

/-! ## The work and the resets to come -/

/-- The work does not look at the resets to come. -/
theorem undisturbed_resets {s u : State} (h : s.undisturbed Config.params exec = .next u)
    (x : List Nat) : State.undisturbed Config.params exec { s with resets := x } =
      .next { u with resets := x } := by
  have work : State.work { s with resets := x } = s.work := rfl
  rcases undisturbed_cases h with ⟨f, hw, rfl⟩ | ⟨hw, rfl⟩ | ⟨hw, rfl⟩ | ⟨w, rest, i, hw, hd, rfl⟩
  · have hrun := runActs_resets (p := Config.params) f.rest x { s with inflight := none }
    rw [undisturbed_flight (work.trans hw), State.finishFlight, State.finishFlight, hrun,
      complete_resets]
  · have hrun := runActs_resets (p := Config.params) (s.turnActs Config.params) x s
    have acts : State.turnActs Config.params { s with resets := x } = s.turnActs Config.params := rfl
    rw [undisturbed_turn (work.trans hw), State.turn, State.turn, acts, hrun]
  · rw [undisturbed_idle (work.trans hw)]
    rfl
  · have hperf := perform_resets (p := Config.params) i x { s with client := rest }
    rw [undisturbed_accept (work.trans hw) hd, exec_eq_perform, hperf]

/-- With an rst ahead, the step is the work undisturbed if it ends before, else the work cut short.
-/
theorem step_of_reset_ahead {s u : State} {t : Nat} {ts : List Nat} (hr : s.resets = t :: ts)
    (ht : s.time < t) (hu : s.undisturbed Config.params exec = .next u) :
    step s = if t ≤ u.time then .next ((s.cutAt Config.params t).applyReset Config.params t)
      else .next u := by
  rw [step, State.stepBy, hr]
  simp only [if_neg (Nat.not_le.mpr ht), hu]

/-! ## The work cut short -/

/-- What an rst at `t` leaves of work that began in `s` and ends in `u`: the events before `t`, with
the client and the resets as the work leaves them. -/
def CutShort (t : Nat) (s u c : State) : Prop :=
  c.trace = s.trace ++ (eventsSince s u).filter (·.time < t) ∧ c.client = u.client ∧
    c.resets = s.resets

/-- Acts cut at `t`, when what comes after them shows only events from `t` on. -/
theorem cutShort_acts {t : Nat} {s s' u : State} (as : List Act) (hs : s'.time < t)
    (htr : s'.trace = s.trace) (hr : s'.resets = s.resets) {es : List Event}
    (hu : u.trace = (runActs p as s').trace ++ es) (he : ∀ e ∈ es, t ≤ e.time)
    (hc : u.client = s'.client) : CutShort t s u (runActsUntil p t as s') := by
  obtain ⟨es', hrun, hcut⟩ := runActsUntil_events (p := p) t as s' hs
  obtain ⟨kc, kr⟩ := runActsUntil_keeps (p := p) t as s'
  refine ⟨?_, kc.trans hc.symm, kr.trans hr⟩
  have since : eventsSince s u = es' ++ es :=
    eventsSince_of_trace (by rw [hu, hrun, htr, List.append_assoc])
  rw [hcut, htr, since, List.filter_append, filter_time_eq_nil he, List.append_nil]

/-- A completion's event is of the end of the operation, so an rst at or before the end comes first.
-/
theorem cutShort_complete {t : Nat} {s s' : State} (i : Instr) (as : List Act) (x : Option Flight)
    (hs : s'.time < t) (htr : s'.trace = s.trace) (hr : s'.resets = s.resets)
    (ht : t ≤ (complete i (runActs p as { s' with inflight := x })).time) :
    CutShort t s (complete i (runActs p as { s' with inflight := x })) (runActsUntil p t as s') := by
  have hrun := runActs_inflight (p := p) as x s'
  obtain ⟨es, htr', he, htime, hc, -⟩ := complete_events i (runActs p as { s' with inflight := x })
  obtain ⟨-, -, kc, -⟩ := runActs_keeps (p := p) as { s' with inflight := x }
  refine cutShort_acts as hs htr hr (es := es) ?_ (fun e h => ?_) (hc.trans kc)
  · rw [htr', hrun]
  · rw [he e h, ← htime]
    exact ht

/-- What the step leaves of work that an rst at `t` cuts (R202, R243). -/
theorem cutShort_cutAt {s u : State} {t : Nat} (hs : s.time < t)
    (hu : s.undisturbed Config.params exec = .next u) (ht : t ≤ u.time) :
    CutShort t s u (s.cutAt Config.params t) := by
  unfold State.cutAt
  rcases undisturbed_cases hu with ⟨f, hw, rfl⟩ | ⟨hw, rfl⟩ | ⟨hw, rfl⟩ | ⟨w, rest, i, hw, hd, rfl⟩
  · rw [hw]
    exact cutShort_complete f.op f.rest none hs rfl rfl ht
  · rw [hw]
    exact cutShort_acts (es := []) _ hs rfl rfl (List.append_nil _).symm (by simp) (turn_keeps s).2.1
  · rw [hw]
    have since : eventsSince s s.idle = [] := eventsSince_of_trace (List.append_nil _).symm
    refine ⟨?_, rfl, rfl⟩
    rw [since]
    exact (List.append_nil _).symm
  · rw [hw]
    simp only [hd]
    by_cases hi : i = .run
    · subst hi
      exact absurd ht (Nat.not_le.mpr hs)
    · rw [perform_eq hi] at ht ⊢
      exact cutShort_complete i (script Config.params i) s.inflight (s' := { s with client := rest })
        hs rfl rfl ht

theorem cutByReset_of_cutShort {t : Nat} {s u c : State} (h : CutShort t s u c) :
    CutByReset t s u (c.applyReset Config.params t) := by
  refine ⟨?_, rfl, rfl, rfl, rfl, rfl, rfl, rfl, rfl, rfl, rfl, rfl⟩
  rw [State.applyReset_trace, h.1]

/-- The step with an rst ahead at `t`, whatever the work (R230, R243). -/
theorem step_cut {s u : State} {t : Nat} {ts : List Nat} (hr : s.resets = t :: ts)
    (ht : s.time < t) (hu : s.undisturbed Config.params exec = .next u) :
    if t ≤ u.time then
      ∃ v, step s = .next v ∧ CutByReset t s u v ∧ v.client = u.client ∧ v.resets = ts
    else step s = .next u := by
  have hstep := step_of_reset_ahead hr ht hu
  split
  · next hle =>
    have hcut := cutShort_cutAt ht hu hle
    have ⟨_, hclient, hresets⟩ := hcut
    rw [if_pos hle] at hstep
    refine ⟨_, hstep, cutByReset_of_cutShort hcut, hclient, ?_⟩
    rw [State.applyReset_resets, hresets, hr, List.tail_cons]
  · next hgt =>
    rwa [if_neg hgt] at hstep

/-- Settles O4: the step cuts the work at the rst, and what is cut off is what would have been at
`t` or later. -/
theorem resetCutsTheOperationInFlight : Obligations.ResetCutsTheOperationInFlight := by
  constructor
  · intro s u w rest i t ts hready hcl hd hr ht hex
    have hu : s.undisturbed Config.params exec = .next u :=
      (undisturbed_accept (work_accept hready hcl) hd).trans hex
    have hc : u.client = rest := eq_perform_of_exec hex ▸ (perform_keeps i _).1
    have hcut := step_cut hr ht hu
    rwa [hc] at hcut
  · intro s u t ts hr ht hstep
    have hu := (step_undisturbed { s with resets := [] } rfl).symm.trans hstep
    have hs : s.undisturbed Config.params exec = .next { u with resets := t :: ts } := by
      have := undisturbed_resets hu (t :: ts)
      rwa [← hr] at this ⊢
    exact step_cut hr ht hs

end Sys2Proof.Machine
end

section
/-! The statements about the wires, the translator and the dispatcher's operations, one by one
(20_memory.md R60, 42_translator_dispatcher.md R160 to R168). -/

namespace Sys2Proof.Machine

open Sys2Proof

/-- Settles O29: the wire is the conjunction of its drivers. -/
theorem wireIsLowIfAnyDriverIsLow : Obligations.WireIsLowIfAnyDriverIsLow := by
  intro latch others
  constructor
  · cases latch <;> simp [wire]
  · intro h
    have all : others.all (· == true) = true := by simpa using h
    rw [wire, all, Bool.and_true]

/-! ## XLAT and the table -/

/-- Settles O30: XLAT responds the table's entry. -/
theorem xlatRespondsTheEntry : Obligations.XlatRespondsTheEntry := by
  refine ⟨fun r c s => ?_, fun p r c s => rfl⟩
  rw [exec_eq_perform, perform_xlat, finishReply_respond]
  rfl

theorem table_extra_column (r : Row) : Config.table r 5 ≠ 0 ↔ r = Config.auxRow := by
  obtain ⟨-, ⟨h5, haux⟩, -⟩ := Config.table_wf
  constructor
  · intro h
    by_contra hr
    exact h (h5 r hr)
  · rintro rfl
    exact haux

/-- Settles O31: the machine's table is well formed, which gives Caps-Shift and the extra column. -/
theorem tableHoldsWhatIsKnownOfIt : Obligations.TableHoldsWhatIsKnownOfIt :=
  ⟨⟨le_rfl, Config.table_wf⟩, rfl, fun s => ⟨_, exec_eq_perform _ s, Config.table_wf.1⟩,
    fun r s => ⟨_, exec_eq_perform _ s, table_extra_column r⟩⟩

/-! ## MIRB, DLY, EMITB, RUN -/

/-- Settles O32: MIRB with `T_MIRROR = 0`. -/
theorem mirbHandsTheByteOver : Obligations.MirbHandsTheByteOver := by
  intro v s
  rw [exec_eq_perform, perform_mirb params_exact]
  rfl

/-- Settles O33: DLY is its one wait. -/
theorem dlyWaits : Obligations.DlyWaits := by
  intro n s
  rw [exec_eq_perform, perform_dly params_exact]

/-- Settles O34: the events of one byte, and one deduction. -/
theorem emitbSendsOnBothOutputsAndCharges : Obligations.EmitbSendsOnBothOutputsAndCharges := by
  intro v s
  rw [exec_eq_perform, perform_emitb params_exact, budgetAfter_one]
  simp [bytesEvents]

/-- Settles O44: RUN is `startRun`. -/
theorem runEntersTheLoop : Obligations.RunEntersTheLoop := fun _ => rfl

/-! ## Key events -/

theorem keyBytes_eq_nil_iff (k : Edge) (code : Code) : keyBytes k code = [] ↔ code = 0 := by
  unfold keyBytes
  split
  · next h => exact iff_of_true rfl h
  · next h => exact iff_of_false (by simp) h

theorem keyBytes_of_ne {code : Code} (h : code ≠ 0) (k : Edge) :
    keyBytes k code = (if code.getLsbD 8 = true then [0xE0] else []) ++
      (if k = .released then [0xF0] else []) ++ [code.setWidth 8] := if_neg h

theorem length_keyBytes {code : Code} (h : code ≠ 0) (k : Edge) :
    (keyBytes k code).length =
      1 + (code.getLsbD 8).toNat + (if k = .released then 1 else 0) := by
  rw [keyBytes_of_ne h]
  cases code.getLsbD 8 <;> cases k <;> rfl

/-- Settles O35: EMITK is the bytes of its key event, one after another. -/
theorem emitkSendsTheKeySequence : Obligations.EmitkSendsTheKeySequence := by
  intro k code s
  refine ⟨?_, (keyBytes_eq_nil_iff k code).mpr, fun h => keyBytes_of_ne h k, fun h => length_keyBytes h k⟩
  rw [exec_eq_perform, perform_emitk params_exact]
  simp only [List.length_eq_zero_iff, keyBytes_eq_nil_iff]
  rfl

/-- An entry is its extended marker and its low byte (R76). -/
theorem code_ext {a b : Code} (hx : a.getLsbD 8 = b.getLsbD 8) (hv : a.setWidth 8 = b.setWidth 8) :
    a = b := by
  apply BitVec.eq_of_getLsbD_eq
  intro i hi
  by_cases h8 : i = 8
  · rw [h8, hx]
  · have hbit := congrArg (BitVec.getLsbD · i) hv
    simpa [show i < 8 by omega] using hbit

/-- An entry that EMITK may be given has a low byte that is neither of the two marker bytes (D12).
-/
theorem entry_markers {code : Code} (h : Config.EntryOk code) (h0 : code ≠ 0) :
    code.setWidth 8 ≠ (0xE0 : Byte) ∧ code.setWidth 8 ≠ (0xF0 : Byte) := by
  rcases h with h | ⟨-, hx, hb⟩
  · exact absurd h h0
  · exact ⟨hx, hb⟩

/-- A marker that what follows does not begin with is told from its absence. -/
theorem marker_unique {m : Byte} {x x' : Bool} {l l' : List Byte} (hl : l.head? ≠ some m)
    (hl' : l'.head? ≠ some m)
    (h : (if x then [m] else []) ++ l = (if x' then [m] else []) ++ l') : x = x' ∧ l = l' := by
  cases x <;> cases x'
  · exact ⟨rfl, h⟩
  · exact absurd (congrArg List.head? h) hl
  · exact absurd (congrArg List.head? h.symm) hl'
  · exact ⟨rfl, (List.cons.inj h).2⟩

/-- The bytes of a key event by its two markers (R78). -/
theorem keyBytes_markers {code : Code} (h : code ≠ 0) (k : Edge) (rest : List Byte) :
    keyBytes k code ++ rest = (if code.getLsbD 8 then [0xE0] else []) ++
      ((if decide (k = .released) then [0xF0] else []) ++ (code.setWidth 8 :: rest)) := by
  rw [keyBytes_of_ne h]
  simp

/-- What follows the extended marker does not begin with that byte. -/
theorem head_after_ext {y : Bool} {v : Byte} (hv : v ≠ 0xE0) (rest : List Byte) :
    ((if y then [0xF0] else []) ++ (v :: rest)).head? ≠ some 0xE0 := by
  cases y
  · exact fun h => hv (Option.some.inj h)
  · exact fun h => absurd (Option.some.inj h) (by decide)

/-- Settles O36: first the extended marker is told, then the release marker, then the low byte. -/
theorem keySequencesAreUniquelyDecodable : Obligations.KeySequencesAreUniquelyDecodable := by
  intro k k' code code' rest rest' ok ok' h0 h0' h
  obtain ⟨hx, hy⟩ := entry_markers ok h0
  obtain ⟨hx', hy'⟩ := entry_markers ok' h0'
  rw [keyBytes_markers h0, keyBytes_markers h0'] at h
  obtain ⟨ext, h⟩ := marker_unique (head_after_ext hx rest) (head_after_ext hx' rest') h
  have head : ∀ (v : Byte) (rest : List Byte), v ≠ 0xF0 → (v :: rest).head? ≠ some 0xF0 :=
    fun v rest hv e => hv (Option.some.inj e)
  obtain ⟨release, h⟩ := marker_unique (head _ rest hy) (head _ rest' hy') h
  obtain ⟨val, hrest⟩ := List.cons.inj h
  have edge : ∀ k k' : Edge, decide (k = .released) = decide (k' = .released) → k = k' := by
    intro k k'
    cases k <;> cases k' <;> decide
  exact ⟨edge k k' release, code_ext ext val, hrest⟩

/-! ## DROW -/

/-- Settles O37: DROW with the machine's parameters. -/
theorem drowDoesOneRow : Obligations.DrowDoesOneRow := by
  intro r s
  rw [exec_eq_perform, perform_drow params_exact]
  simp only [toNat_budgetAfter_full, params_tDeduct, params_tSettle, byteTime_params,
    List.append_assoc]
  rfl

theorem length_keyBytes_le (k : Edge) (code : Code) : (keyBytes k code).length ≤ 3 := by
  by_cases h : code = 0
  · rw [(keyBytes_eq_nil_iff k code).mpr h]
    decide
  · rw [length_keyBytes h]
    have := Bool.toNat_le (code.getLsbD 8)
    split <;> omega

theorem length_keyEventsBytes_le (ks : List (Edge × Code)) :
    (keyEventsBytes ks).length ≤ ks.length * 3 := by
  induction ks with
  | nil => exact le_rfl
  | cons k ks ih =>
    have hk := length_keyBytes_le k.1 k.2
    rw [keyEventsBytes, List.flatMap_cons, List.length_append, List.length_cons]
    rw [keyEventsBytes] at ih
    omega

/-- A row has six cells and a cell at most three bytes (R168). -/
theorem length_rowBytes_le (p : Config.Params) (r : Row) (prev cur : RowState) :
    (keyEventsBytes (keyEvents p r prev cur)).length ≤ 18 := by
  have cells : (keyEvents p r prev cur).length ≤ 6 := List.length_filterMap_le _ _
  have bytes := length_keyEventsBytes_le (keyEvents p r prev cur)
  omega

theorem time_drow {p : Config.Params} (h : p.delayMode = .exact) (r : Row) (s : State) :
    (perform p (.drow r) s).time =
      s.time + drowTime p (keyEventsBytes (keyEvents p r s.cur[r] s.nextSample)).length := by
  rw [perform_drow h]
  simp only [toNat_budgetAfter_full, drowTime]
  omega

theorem drowTime_params (n : Nat) : drowTime Config.params n = drowTimeDefault n := by
  simp only [drowTime, drowTimeDefault, byteTime_params, params_tSettle, params_tDeduct]
  split <;> omega

/-- Settles O38: the time is `T_DROW` of the row's bytes, of which there are at most 18. -/
theorem drowTakesItsTime : Obligations.DrowTakesItsTime :=
  ⟨fun _ r s h => time_drow h r s, drowTime_params, length_rowBytes_le⟩

end Sys2Proof.Machine
end

section
/-! What operations leave unchanged (20_memory.md R55, 41_matrix_scanner.md R130, R131,
42_translator_dispatcher.md R161 to R165). -/

namespace Sys2Proof.Machine

open Sys2Proof

/-- Settles O51: the three reads are a response and a completion. -/
theorem readsChangeOnlyTheResponse : Obligations.ReadsChangeOnlyTheResponse := by
  intro i s t hi ht
  obtain rfl := eq_perform_of_exec ht
  rcases hi with ⟨r, rfl⟩ | ⟨r, c, rfl⟩ | ⟨r, c, rfl⟩ <;> rfl

/-- `t` differs from `s` at most in the PS/2 lines, the budget, the time, the response, the trace,
which only grew, and the counter of free values. -/
def SendsOnly (s t : State) : Prop :=
  t = { s with
    clk := t.clk, data := t.data, budget := t.budget, time := t.time, rsp := t.rsp
    trace := t.trace, draws := t.draws } ∧
  s.trace <+: t.trace

theorem sendsOnly_sendb (v : Byte) (s : State) :
    SendsOnly s (perform Config.params (.sendb v) s) := by
  rw [perform_sendb params_exact]
  exact ⟨rfl, by simp⟩

theorem sendsOnly_mirb (v : Byte) (s : State) : SendsOnly s (perform Config.params (.mirb v) s) := by
  rw [perform_mirb params_exact]
  exact ⟨rfl, by simp⟩

theorem sendsOnly_dly (n : BitVec 12) (s : State) :
    SendsOnly s (perform Config.params (.dly n) s) := by
  rw [perform_dly params_exact]
  exact ⟨rfl, by simp⟩

theorem sendsOnly_emitb (v : Byte) (s : State) :
    SendsOnly s (perform Config.params (.emitb v) s) := by
  rw [perform_emitb params_exact]
  exact ⟨rfl, by simp⟩

theorem sendsOnly_emitk (k : Edge) (code : Code) (s : State) :
    SendsOnly s (perform Config.params (.emitk k code) s) := by
  rw [perform_emitk params_exact]
  exact ⟨rfl, by simp⟩

theorem lines_emitk {code : Code} (h : code ≠ 0) (k : Edge) (s : State) :
    (perform Config.params (.emitk k code) s).clk = true ∧
      (perform Config.params (.emitk k code) s).data = true := by
  have bytes : (keyBytes k code).length ≠ 0 := fun hn =>
    h ((keyBytes_eq_nil_iff k code).mp (List.length_eq_zero_iff.mp hn))
  rw [perform_emitk params_exact]
  exact ⟨if_neg bytes, if_neg bytes⟩

/-- Settles O52: the whole effects of the five operations, read as frames. -/
theorem sendingLeavesTheScanner : Obligations.SendingLeavesTheScanner := by
  intro i s t hi ht
  obtain rfl := eq_perform_of_exec ht
  rcases hi with ⟨v, rfl⟩ | ⟨v, rfl⟩ | ⟨n, rfl⟩ | ⟨v, rfl⟩ | ⟨k, code, rfl⟩
  · obtain ⟨hframe, htrace⟩ := sendsOnly_sendb v s
    refine ⟨hframe, htrace, fun _ => ?_, by simp, fun _ => ?_⟩ <;> rw [perform_sendb params_exact]
    exact ⟨rfl, rfl⟩
  · obtain ⟨hframe, htrace⟩ := sendsOnly_mirb v s
    refine ⟨hframe, htrace, fun _ => ?_, fun _ => ?_, by simp⟩ <;> rw [perform_mirb params_exact]
    exact ⟨rfl, rfl⟩
  · obtain ⟨hframe, htrace⟩ := sendsOnly_dly n s
    refine ⟨hframe, htrace, fun _ => ?_, fun _ => ?_, by simp⟩ <;> rw [perform_dly params_exact]
    exact ⟨rfl, rfl⟩
  · obtain ⟨hframe, htrace⟩ := sendsOnly_emitb v s
    refine ⟨hframe, htrace, by simp, by simp, fun _ => ?_⟩
    rw [perform_emitb params_exact]
    exact ⟨rfl, rfl⟩
  · obtain ⟨hframe, htrace⟩ := sendsOnly_emitk k code s
    refine ⟨hframe, htrace, by simp, by simp, fun h => ?_⟩
    obtain ⟨v, hv⟩ | ⟨v, hv⟩ | ⟨k', code', hv, h0⟩ := h
    · cases hv
    · cases hv
    · cases hv
      exact lines_emitk h0 k s

/-- `t` has of the scanner only row `r` changed. -/
def ScansOnly (r : Row) (s t : State) : Prop :=
  t = { s with
    row := t.row, cur := t.cur, prev := t.prev, strobed := t.strobed, clk := t.clk
    data := t.data, budget := t.budget, time := t.time, rsp := t.rsp, samples := t.samples
    trace := t.trace, draws := t.draws } ∧
  ∀ q : Row, q ≠ r → t.row[q] = s.row[q] ∧ t.cur[q] = s.cur[q] ∧ t.prev[q] = s.prev[q] ∧
    t.strobed[q] = s.strobed[q]

theorem scansOnly_scanr (r : Row) (s : State) :
    ScansOnly r s (perform Config.params (.scanr r) s) := by
  rw [perform_scanr params_exact]
  exact ⟨rfl, fun q hq => by simp [hq]⟩

theorem scansOnly_drow (r : Row) (s : State) :
    ScansOnly r s (perform Config.params (.drow r) s) := by
  rw [perform_drow params_exact]
  exact ⟨rfl, fun q hq => by simp [hq]⟩

/-- Settles O53: the whole effects of INIT, SCANR and DROW, read as frames. -/
theorem scanningTouchesItsRowOnly : Obligations.ScanningTouchesItsRowOnly := by
  constructor
  · intro s t ht
    obtain rfl := eq_perform_of_exec ht
    rw [perform_init]
  · intro r s t ht
    have hscan : ScansOnly r s t := by
      rcases ht with ht | ht <;> obtain rfl := eq_perform_of_exec ht
      · exact scansOnly_scanr r s
      · exact scansOnly_drow r s
    refine ⟨hscan.1, hscan.2, fun h => ?_⟩
    obtain rfl := eq_perform_of_exec h
    rw [perform_scanr params_exact]
    exact ⟨rfl, rfl, rfl⟩

end Sys2Proof.Machine
end

section
/-! What the mirror, the indicator and a receiver make of the events of a byte, a key event and a
row, and how the events of operations one after another come together. -/

namespace Sys2Proof.Machine

open Sys2Proof

variable {p : Config.Params}

/-! ## Readings of lists of events -/

@[simp] theorem mirrorBytes_append (es fs : List Event) :
    mirrorBytes (es ++ fs) = mirrorBytes es ++ mirrorBytes fs := List.filterMap_append

@[simp] theorem indEvents_append (es fs : List Event) :
    indEvents (es ++ fs) = indEvents es ++ indEvents fs := List.filterMap_append

@[simp] theorem withoutDone_append (es fs : List Event) :
    withoutDone (es ++ fs) = withoutDone es ++ withoutDone fs := List.filter_append ..

@[simp] theorem outputs_append (es fs : List Event) :
    outputs (es ++ fs) = outputs es ++ outputs fs := List.filter_append ..

/-- A reading that looks at no line but the PS/2 ones is unchanged by the `done` pulses. -/
theorem mirrorBytes_withoutDone (es : List Event) : mirrorBytes (withoutDone es) = mirrorBytes es := by
  induction es with
  | nil => rfl
  | cons e es ih =>
    obtain ⟨t, k⟩ := e
    cases k <;> simp_all [mirrorBytes, withoutDone]

theorem see_withoutDone (es : List Event) (x : Receiver) :
    (withoutDone es).foldl Receiver.see x = es.foldl Receiver.see x := by
  induction es generalizing x with
  | nil => rfl
  | cons e es ih =>
    by_cases h : e.kind = .done
    · have skip : x.see e = x := by simp [Receiver.see, h]
      have drop : withoutDone (e :: es) = withoutDone es := List.filter_cons_of_neg (by simp [h])
      rw [drop, List.foldl_cons, skip, ih]
    · have keep : withoutDone (e :: es) = e :: withoutDone es := List.filter_cons_of_pos (by simp [h])
      rw [keep, List.foldl_cons, List.foldl_cons, ih]

/-! ## A frame, bytes, key events -/

/-- The events of a frame are all on the PS/2 lines. -/
theorem frameEvents_setLine (t : Nat) (v : Byte) :
    ∀ e ∈ frameEvents t v, ∃ l b, e.kind = .setLine l b := by
  intro e he
  simp only [frameEvents, List.mem_flatMap, List.mem_cons, List.not_mem_nil, or_false] at he
  obtain ⟨k, -, rfl | rfl | rfl⟩ := he
  · exact ⟨_, _, rfl⟩
  · exact ⟨_, _, rfl⟩
  · exact ⟨_, _, rfl⟩

theorem mirrorBytes_frameEvents (t : Nat) (v : Byte) : mirrorBytes (frameEvents t v) = [] :=
  List.filterMap_eq_nil_iff.mpr fun e he => by
    obtain ⟨l, b, h⟩ := frameEvents_setLine t v e he
    simp [h]

theorem indEvents_frameEvents (t : Nat) (v : Byte) : indEvents (frameEvents t v) = [] :=
  List.filterMap_eq_nil_iff.mpr fun e he => by
    obtain ⟨l, b, h⟩ := frameEvents_setLine t v e he
    simp [h]

theorem withoutDone_frameEvents (t : Nat) (v : Byte) :
    withoutDone (frameEvents t v) = frameEvents t v :=
  List.filter_eq_self.mpr fun e he => by
    obtain ⟨l, b, h⟩ := frameEvents_setLine t v e he
    simp [h]

/-- The mirror gets the bytes (R161). -/
theorem mirrorBytes_bytesEvents (t : Nat) (vs : List Byte) :
    mirrorBytes (bytesEvents p t vs) = vs := by
  induction vs generalizing t with
  | nil => rfl
  | cons v vs ih =>
    rw [bytesEvents, mirrorBytes_append, mirrorBytes_frameEvents, List.nil_append]
    exact congrArg (v :: ·) (ih _)

theorem indEvents_bytesEvents (t : Nat) (vs : List Byte) : indEvents (bytesEvents p t vs) = [] := by
  induction vs generalizing t with
  | nil => rfl
  | cons v vs ih =>
    rw [bytesEvents, indEvents_append, indEvents_frameEvents, List.nil_append]
    exact ih _

theorem withoutDone_bytesEvents (t : Nat) (vs : List Byte) :
    withoutDone (bytesEvents p t vs) = bytesEvents p t vs := by
  induction vs generalizing t with
  | nil => rfl
  | cons v vs ih =>
    rw [bytesEvents, withoutDone_append, withoutDone_frameEvents]
    exact congrArg (fun es => frameEvents t v ++ ⟨t + 660, .mirror v⟩ :: es) (ih _)

/-- A receiver on an idle bus that has received `bs`. -/
def Receiver.idleAfter (bs : List (Option Byte)) : Receiver := { Receiver.idle with bytes := bs }

/-- A receiver gets the bytes (R107). -/
theorem see_bytesEvents (t : Nat) (vs : List Byte) (bs : List (Option Byte)) :
    (bytesEvents p t vs).foldl Receiver.see (.idleAfter bs) = .idleAfter (bs ++ vs.map some) := by
  induction vs generalizing t bs with
  | nil => simp [bytesEvents]
  | cons v vs ih =>
    have frame : (frameEvents t v).foldl Receiver.see (.idleAfter bs) =
        .idleAfter (bs ++ [some v]) := see_frameEvents rfl rfl t v
    rw [bytesEvents, List.foldl_append, frame, List.foldl_cons]
    refine (ih _ _).trans ?_
    simp

theorem mirrorBytes_keyEventsTrace (t : Nat) (ks : List (Edge × Code)) :
    mirrorBytes (keyEventsTrace p t ks) = keyEventsBytes ks := by
  induction ks generalizing t with
  | nil => rfl
  | cons k ks ih =>
    have step : mirrorBytes (keyEventsTrace p t (k :: ks)) =
        mirrorBytes (bytesEvents p t (keyBytes k.1 k.2) ++
          keyEventsTrace p (t + (keyBytes k.1 k.2).length * byteTime p) ks) := rfl
    rw [step, mirrorBytes_append, mirrorBytes_bytesEvents, ih]
    rfl

/-- The indicator is told of each key event (R169). -/
theorem indEvents_keyEventsTrace (t : Nat) (ks : List (Edge × Code)) :
    indEvents (keyEventsTrace p t ks) = ks.map Prod.fst := by
  induction ks generalizing t with
  | nil => rfl
  | cons k ks ih =>
    have step : indEvents (keyEventsTrace p t (k :: ks)) =
        k.1 :: indEvents (bytesEvents p t (keyBytes k.1 k.2) ++
          keyEventsTrace p (t + (keyBytes k.1 k.2).length * byteTime p) ks) := rfl
    rw [step, indEvents_append, indEvents_bytesEvents, ih]
    rfl

theorem see_keyEventsTrace (t : Nat) (ks : List (Edge × Code)) (bs : List (Option Byte)) :
    (keyEventsTrace p t ks).foldl Receiver.see (.idleAfter bs) =
      .idleAfter (bs ++ (keyEventsBytes ks).map some) := by
  induction ks generalizing t bs with
  | nil => simp [keyEventsTrace, keyEventsBytes]
  | cons k ks ih =>
    have ind : (Receiver.idleAfter bs).see ⟨t, .ind k.1⟩ = .idleAfter bs := rfl
    rw [keyEventsTrace, List.foldl_cons, List.foldl_append, ind, see_bytesEvents, ih]
    simp [keyEventsBytes]

/-! ## The events of a row -/

/-- The events of DROW before its `done` (R165), with exact waits. -/
def rowEvents (p : Config.Params) (r : Row) (s : State) : List Event :=
  [⟨s.time, .setLine (.row r) false⟩, ⟨s.time + p.tSettle, .sample r s.nextSample⟩,
    ⟨s.time + p.tSettle, .setLine (.row r) true⟩] ++
    keyEventsTrace p (s.time + p.tSettle) (keyEvents p r s.cur[r] s.nextSample)

/-- The bytes that DROW sends (R165). -/
def rowBytes (p : Config.Params) (r : Row) (s : State) : List Byte :=
  keyEventsBytes (keyEvents p r s.cur[r] s.nextSample)

theorem trace_runActs_drow (h : p.delayMode = .exact) (r : Row) (s : State) :
    (runActs p (scriptDrow p r) s).trace = s.trace ++ rowEvents p r s := by
  rw [runActs_drow h]
  rfl

theorem eventsSince_drow (h : p.delayMode = .exact) (r : Row) (s : State) :
    eventsSince s (perform p (.drow r) s) =
      rowEvents p r s ++ [⟨(perform p (.drow r) s).time, .done⟩] := by
  apply eventsSince_of_trace
  rw [← List.append_assoc, ← trace_runActs_drow h]
  rfl

theorem mirrorBytes_rowEvents (r : Row) (s : State) :
    mirrorBytes (rowEvents p r s) = rowBytes p r s := by
  rw [rowEvents, mirrorBytes_append, mirrorBytes_keyEventsTrace]
  rfl

theorem indEvents_rowEvents (r : Row) (s : State) :
    indEvents (rowEvents p r s) = (keyEvents p r s.cur[r] s.nextSample).map Prod.fst := by
  rw [rowEvents, indEvents_append, indEvents_keyEventsTrace]
  rfl

theorem received_rowEvents (r : Row) (s : State) :
    received (rowEvents p r s) = .idleAfter ((rowBytes p r s).map some) := by
  rw [rowEvents, received, List.foldl_append]
  exact see_keyEventsTrace _ _ []

/-- A `done` pulse is nothing to a receiver. -/
theorem received_append_done (es : List Event) (t : Nat) :
    received (es ++ [⟨t, .done⟩]) = received es := by
  rw [received, List.foldl_append]
  rfl

theorem mirrorBytes_append_done (es : List Event) (t : Nat) :
    mirrorBytes (es ++ [⟨t, .done⟩]) = mirrorBytes es := by
  rw [mirrorBytes_append]
  exact List.append_nil _

/-! ## Operations one after another -/

/-- Operations one after another, each whole. -/
def performAll (is : List Instr) (s : State) : State :=
  is.foldl (fun s i => perform Config.params i s) s

theorem execAll_eq_performAll (is : List Instr) (s : State) :
    execAll is s = .next (performAll is s) := by
  induction is generalizing s with
  | nil => rfl
  | cons i is ih =>
    rw [execAll, exec_eq_perform]
    exact ih _

theorem performAll_cons (i : Instr) (is : List Instr) (s : State) :
    performAll (i :: is) s = performAll is (perform Config.params i s) := rfl

theorem performAll_append (is js : List Instr) (s : State) :
    performAll (is ++ js) s = performAll js (performAll is s) := List.foldl_append

/-- The trace only grows. -/
theorem trace_grows_perform (i : Instr) (s : State) : s.trace <+: (perform p i s).trace := by
  by_cases hi : i = .run
  · subst hi
    exact List.prefix_rfl
  · obtain ⟨es, hrun, -⟩ := runActs_events (p := p) (script p i) s
    obtain ⟨fs, hdone, -⟩ := complete_events i (runActs p (script p i) s)
    refine ⟨es ++ fs, ?_⟩
    rw [perform_eq hi, hdone, hrun, List.append_assoc]

theorem trace_grows_performAll (is : List Instr) (s : State) :
    s.trace <+: (performAll is s).trace := by
  induction is generalizing s with
  | nil => exact List.prefix_rfl
  | cons i is ih => exact (trace_grows_perform i s).trans (ih _)

/-- The events of work in two parts. -/
theorem eventsSince_trans {s t u : State} (hst : s.trace <+: t.trace) (htu : t.trace <+: u.trace) :
    eventsSince s u = eventsSince s t ++ eventsSince t u := by
  obtain ⟨es, h1⟩ := hst
  obtain ⟨fs, h2⟩ := htu
  rw [eventsSince_of_trace h1.symm, eventsSince_of_trace h2.symm]
  exact eventsSince_of_trace (by rw [← h2, ← h1, List.append_assoc])

theorem eventsSince_performAll_cons (i : Instr) (is : List Instr) (s : State) :
    eventsSince s (performAll (i :: is) s) =
      eventsSince s (perform Config.params i s) ++
        eventsSince (perform Config.params i s) (performAll is (perform Config.params i s)) :=
  eventsSince_trans (trace_grows_perform i s) (trace_grows_performAll is _)

theorem eventsSince_performAll_append (is js : List Instr) (s : State) :
    eventsSince s (performAll (is ++ js) s) =
      eventsSince s (performAll is s) ++ eventsSince (performAll is s) (performAll js (performAll is s)) := by
  rw [performAll_append]
  exact eventsSince_trans (trace_grows_performAll is s) (trace_grows_performAll js _)

end Sys2Proof.Machine
end

section
/-! The statements about what the dispatcher's operations send (42_translator_dispatcher.md R163 to
R172, 30_encoding.md R84). -/

namespace Sys2Proof.Machine

open Sys2Proof

/-! ## One row -/

/-- One bit turned over is the one key event of its row. -/
theorem keyEvents_flip (p : Config.Params) (r : Row) (c : Col) (cur : RowState) :
    keyEvents p r cur (cur ^^^ (1 <<< c.val)) =
      [(if cur.getLsbD c.val then .pressed else .released, p.table r c)] := by
  have one : ∀ c d : Col, ((1 <<< c.val : Nat) : RowState).getLsbD d.val = decide (d = c) := by decide
  have cell : ∀ d : Col,
      (if cur.getLsbD d.val = true ∧ (cur ^^^ (1 <<< c.val)).getLsbD d.val = false then
          some (Edge.pressed, p.table r d)
        else if cur.getLsbD d.val = false ∧ (cur ^^^ (1 <<< c.val)).getLsbD d.val = true then
          some (Edge.released, p.table r d)
        else none) =
      if d = c then some (if cur.getLsbD c.val then .pressed else .released, p.table r c) else none := by
    intro d
    rw [BitVec.getLsbD_xor, one]
    by_cases h : d = c
    · subst h
      cases cur.getLsbD d.val <;> simp
    · cases cur.getLsbD d.val <;> simp [h]
  simp only [keyEvents, cell]
  fin_cases c <;> rfl

theorem exec_drow_readings (r : Row) (s : State) :
    ∃ t, exec (.drow r) s = .next t ∧
      mirrorBytes (eventsSince s t) = rowBytes Config.params r s ∧
      received (eventsSince s t) = .idleAfter ((rowBytes Config.params r s).map some) ∧
      indEvents (eventsSince s t) =
        (keyEvents Config.params r s.cur[r] s.nextSample).map Prod.fst ∧
      t.budget = budgetAfter Config.params 4000 (rowBytes Config.params r s).length ∧
      t.time = s.time + drowTimeDefault (rowBytes Config.params r s).length := by
  refine ⟨_, exec_eq_perform _ s, ?_, ?_, ?_, ?_, ?_⟩
  · rw [eventsSince_drow params_exact, mirrorBytes_append_done, mirrorBytes_rowEvents]
  · rw [eventsSince_drow params_exact, received_append_done, received_rowEvents]
  · rw [eventsSince_drow params_exact, indEvents_append, indEvents_rowEvents]
    exact List.append_nil _
  · rw [perform_drow params_exact]
    rfl
  · rw [time_drow params_exact, drowTime_params]
    rfl

/-- Settles O39: the one key event has no bytes. -/
theorem unmappedCellCostsNothing : Obligations.UnmappedCellCostsNothing := by
  intro r c s hcell hsample
  obtain ⟨t, hex, hmirror, hrec, hind, hbudget, htime⟩ := exec_drow_readings r s
  have events := keyEvents_flip Config.params r c s.cur[r]
  rw [← hsample, params_table, hcell] at events
  have bytes : rowBytes Config.params r s = [] := by
    rw [rowBytes, events]
    exact congrArg (· ++ []) ((keyBytes_eq_nil_iff _ 0).mpr rfl)
  rw [bytes] at hmirror hrec hbudget htime
  rw [events] at hind
  exact ⟨t, hex, hmirror, by rw [hrec]; rfl, by rw [hrec]; rfl, by rw [hind]; rfl,
    hbudget.trans rfl, htime⟩

/-- Settles O41: the one key event is a press of Caps-Shift, whose code is 0x012. -/
theorem capsShiftScenario : Obligations.CapsShiftScenario := by
  intro s hcur hsample
  obtain ⟨t, hex, hmirror, hrec, hind, hbudget, htime⟩ := exec_drow_readings 0 s
  have events : keyEvents Config.params 0 s.cur[(0 : Row)] s.nextSample = [(.pressed, 0x012)] := by
    rw [hcur, hsample]
    exact keyEvents_flip Config.params 0 0 0x3F
  have bytes : rowBytes Config.params 0 s = [0x12] := by
    rw [rowBytes, events]
    rfl
  rw [bytes] at hmirror hrec hbudget htime
  rw [events] at hind
  exact ⟨t, hex, by rw [hrec]; rfl, hmirror, hind, hbudget.trans rfl, htime⟩

/-! ## Bytes one after another -/

/-- What sending `n` bytes does to the registers (R163, R164). -/
structure SentBytes (n : Nat) (s t : State) : Prop where
  time : t.time = s.time + n * 660
  budget : t.budget = budgetAfter Config.params s.budget n
  clk : t.clk = if n = 0 then s.clk else true
  data : t.data = if n = 0 then s.data else true
  cur : t.cur = s.cur
  prev : t.prev = s.prev
  row : t.row = s.row
  strobed : t.strobed = s.strobed

theorem SentBytes.refl (s : State) : SentBytes 0 s s :=
  ⟨by simp, (budgetAfter_zero s.budget).symm, rfl, rfl, rfl, rfl, rfl, rfl⟩

theorem SentBytes.trans {m n : Nat} {s t u : State} (h : SentBytes m s t) (g : SentBytes n t u) :
    SentBytes (m + n) s u where
  time := by rw [g.time, h.time, Nat.add_mul, Nat.add_assoc]
  budget := by rw [g.budget, h.budget, budgetAfter_add]
  clk := by
    rw [g.clk, h.clk]
    split_ifs <;> simp_all
  data := by
    rw [g.data, h.data]
    split_ifs <;> simp_all
  cur := g.cur.trans h.cur
  prev := g.prev.trans h.prev
  row := g.row.trans h.row
  strobed := g.strobed.trans h.strobed

theorem sentBytes_emitb (v : Byte) (s : State) : SentBytes 1 s (perform Config.params (.emitb v) s) := by
  rw [perform_emitb params_exact]
  constructor <;> rfl

theorem sentBytes_emitk (k : Edge) (code : Code) (s : State) :
    SentBytes (keyBytes k code).length s (perform Config.params (.emitk k code) s) := by
  rw [perform_emitk params_exact]
  constructor <;> rfl

theorem sentBytes_emitbs (vs : List Byte) (s : State) :
    SentBytes vs.length s (performAll (vs.map .emitb) s) := by
  induction vs generalizing s with
  | nil => exact .refl s
  | cons v vs ih =>
    rw [List.length_cons, Nat.add_comm, List.map_cons, performAll_cons]
    exact (sentBytes_emitb v s).trans (ih _)

theorem sentBytes_emitks (ks : List (Edge × Code)) (s : State) :
    SentBytes (keyEventsBytes ks).length s (performAll (ks.map (fun k => .emitk k.1 k.2)) s) := by
  induction ks generalizing s with
  | nil => exact .refl s
  | cons k ks ih =>
    rw [keyEventsBytes, List.flatMap_cons, List.length_append, List.map_cons, performAll_cons]
    exact (sentBytes_emitk k.1 k.2 s).trans (ih _)

theorem eventsSince_emitb (v : Byte) (s : State) :
    eventsSince s (perform Config.params (.emitb v) s) =
      bytesEvents Config.params s.time [v] ++ [⟨s.time + 660, .done⟩] :=
  eventsSince_of_trace (by rw [perform_emitb params_exact, List.append_assoc, byteTime_params])

theorem eventsSince_emitk (k : Edge) (code : Code) (s : State) :
    eventsSince s (perform Config.params (.emitk k code) s) =
      bytesEvents Config.params s.time (keyBytes k code) ++
        [⟨s.time + (keyBytes k code).length * 660, .done⟩] :=
  eventsSince_of_trace (by rw [perform_emitk params_exact, List.append_assoc, byteTime_params])

theorem withoutDone_eventsSince_emitbs (vs : List Byte) (s : State) :
    withoutDone (eventsSince s (performAll (vs.map .emitb) s)) = bytesEvents Config.params s.time vs := by
  induction vs generalizing s with
  | nil => exact congrArg withoutDone (eventsSince_of_trace (List.append_nil s.trace).symm)
  | cons v vs ih =>
    have time := (sentBytes_emitb v s).time
    rw [List.map_cons, eventsSince_performAll_cons, withoutDone_append, ih, eventsSince_emitb,
      withoutDone_append, withoutDone_bytesEvents, time,
      show v :: vs = [v] ++ vs from rfl, bytesEvents_append]
    rw [List.append_assoc]
    rfl

theorem outputs_eventsSince_emitks (ks : List (Edge × Code)) (s : State) :
    outputs (eventsSince s (performAll (ks.map (fun k => .emitk k.1 k.2)) s)) =
      outputs (keyEventsTrace Config.params s.time ks) := by
  induction ks generalizing s with
  | nil => exact congrArg outputs (eventsSince_of_trace (List.append_nil s.trace).symm)
  | cons k ks ih =>
    have time := (sentBytes_emitk k.1 k.2 s).time
    have ind : outputs (keyEventsTrace Config.params s.time (k :: ks)) =
        outputs (bytesEvents Config.params s.time (keyBytes k.1 k.2) ++
          keyEventsTrace Config.params (s.time + (keyBytes k.1 k.2).length * 660) ks) := rfl
    rw [List.map_cons, eventsSince_performAll_cons, outputs_append, ih, eventsSince_emitk, outputs_append,
      time, ind, outputs_append, List.append_assoc]
    rfl

/-- Settles O40: induction over the bytes, each of which is a frame and a mirror byte. -/
theorem budgetSaturatesOverAnyBytes : Obligations.BudgetSaturatesOverAnyBytes := by
  constructor
  · intro vs s
    have sent := sentBytes_emitbs vs s
    have events := withoutDone_eventsSince_emitbs vs s
    refine ⟨_, execAll_eq_performAll _ s, ?_, sent.time, ?_, ?_⟩
    · have hb := s.budget.isLt
      rw [sent.budget, budgetAfter, BitVec.toNat_ofNat, params_tDeduct, Nat.mod_eq_of_lt (by omega)]
    · rw [← mirrorBytes_withoutDone, events, mirrorBytes_bytesEvents]
    · rw [received, ← see_withoutDone, events]
      exact see_bytesEvents s.time vs []
  · intro u v w s hs
    refine ⟨_, execAll_eq_performAll _ s, ?_⟩
    have budget := (sentBytes_emitbs [u, v, w] s).budget
    rw [hs] at budget
    simp only [List.map_cons, List.map_nil, List.length_cons, List.length_nil] at budget
    rw [budget]
    decide

/-! ## The mirror and the wire -/

/-- A receiver recovers from the events, on an idle bus, exactly what the mirror gets (R172). -/
def InLockstep (es : List Event) : Prop :=
  received es = { Receiver.idle with bytes := (mirrorBytes es).map some }

theorem inLockstep_bytes (t : Nat) (vs : List Byte) : InLockstep (bytesEvents Config.params t vs) := by
  rw [InLockstep, mirrorBytes_bytesEvents]
  exact see_bytesEvents t vs []

theorem inLockstep_row (r : Row) (s : State) : InLockstep (rowEvents Config.params r s) := by
  rw [InLockstep, mirrorBytes_rowEvents]
  exact received_rowEvents r s

theorem inLockstep_append_done {es : List Event} (h : InLockstep es) (t : Nat) :
    InLockstep (es ++ [⟨t, .done⟩]) := by
  rw [InLockstep, received_append_done, mirrorBytes_append_done]
  exact h

theorem eventsSince_turn {s : State} (ha : AtRest s) :
    eventsSince s (s.turn Config.params) = rowEvents Config.params s.rowIdx s :=
  eventsSince_of_trace (by
    rw [turn_eq ha, State.advanceRow_trace, trace_runActs_drow params_exact])

theorem step_turn {s : State} (hm : s.mode = .run) (ha : AtRest s) (hr : s.resets = []) :
    step s = .next (s.turn Config.params) :=
  (step_undisturbed s hr).trans (undisturbed_turn (work_turn hm ha))

/-- Settles O42: byte for byte, a frame and then its mirror byte. -/
theorem mirrorIsInLockstepWithTheWire : Obligations.MirrorIsInLockstepWithTheWire := by
  constructor
  · intro i s hi
    refine ⟨_, exec_eq_perform i s, ?_⟩
    rcases hi with ⟨v, rfl⟩ | ⟨k, code, rfl⟩ | ⟨r, rfl⟩
    · rw [eventsSince_emitb]
      exact inLockstep_append_done (inLockstep_bytes _ _) _
    · rw [eventsSince_emitk]
      exact inLockstep_append_done (inLockstep_bytes _ _) _
    · rw [eventsSince_drow params_exact]
      exact inLockstep_append_done (inLockstep_row r s) _
  · intro s hm ha hr
    refine ⟨_, step_turn hm ha hr, ?_⟩
    rw [eventsSince_turn ha]
    exact inLockstep_row s.rowIdx s

/-! ## Composites and their expansions -/

theorem emitb_expansion (v : Byte) (s : State) :
    let a := perform Config.params (.emitb v) s
    let b := performAll [.sendb v, .mirb v] s
    withoutDone (eventsSince s a) = withoutDone (eventsSince s b) ∧ a.time = b.time ∧
      a.clk = b.clk ∧ a.data = b.data ∧ a.cur = b.cur ∧ a.prev = b.prev ∧ a.row = b.row ∧
      a.budget.toNat = b.budget.toNat - min b.budget.toNat 660 := by
  have events : eventsSince s (performAll [.sendb v, .mirb v] s) =
      frameEvents s.time v ++ [⟨s.time + 660, .done⟩, ⟨s.time + 660, .mirror v⟩, ⟨s.time + 660, .done⟩] :=
    eventsSince_of_trace (by
      simp [performAll, perform_sendb params_exact, perform_mirb params_exact])
  refine ⟨?_, ?_⟩
  · rw [events, eventsSince_emitb]
    simp [bytesEvents, withoutDone]
  · simp only [performAll, List.foldl_cons, List.foldl_nil, perform_emitb params_exact,
      perform_sendb params_exact, perform_mirb params_exact, byteTime_params, params_tMirror,
      Nat.add_zero, true_and]
    have hb := s.budget.isLt
    rw [budgetAfter_one, params_tDeduct, BitVec.toNat_ofNat, Nat.mod_eq_of_lt (by omega)]

theorem emitk_expansion (k : Edge) (code : Code) (s : State) :
    let a := perform Config.params (.emitk k code) s
    let b := performAll ((keyBytes k code).map .emitb) s
    withoutDone (eventsSince s a) = withoutDone (eventsSince s b) ∧ a.time = b.time ∧
      a.clk = b.clk ∧ a.data = b.data ∧ a.cur = b.cur ∧ a.prev = b.prev ∧ a.row = b.row ∧
      a.budget = b.budget := by
  have one := sentBytes_emitk k code s
  have all := sentBytes_emitbs (keyBytes k code) s
  refine ⟨?_, one.time.trans all.time.symm, one.clk.trans all.clk.symm, one.data.trans all.data.symm,
    one.cur.trans all.cur.symm, one.prev.trans all.prev.symm, one.row.trans all.row.symm,
    one.budget.trans all.budget.symm⟩
  rw [withoutDone_eventsSince_emitbs, eventsSince_emitk, withoutDone_append, withoutDone_bytesEvents]
  exact List.append_nil _

/-- The expansion of DROW (R84), from a whole budget. -/
def drowExpansion (r : Row) (s : State) (left : BitVec 12) : List Instr :=
  .scanr r :: ((keyEvents Config.params r s.cur[r] s.nextSample).map (fun k => .emitk k.1 k.2) ++
    [.dly left])

theorem eventsSince_scanr (r : Row) (s : State) :
    eventsSince s (perform Config.params (.scanr r) s) =
      [⟨s.time, .setLine (.row r) false⟩, ⟨s.time + 15, .sample r s.nextSample⟩,
        ⟨s.time + 15, .setLine (.row r) true⟩, ⟨s.time + 15, .done⟩] :=
  eventsSince_of_trace (by rw [perform_scanr params_exact, params_tSettle])

theorem outputs_eventsSince_dly (n : BitVec 12) (s : State) :
    outputs (eventsSince s (perform Config.params (.dly n) s)) = [] := by
  rw [eventsSince_of_trace (t := perform Config.params (.dly n) s) (by rw [perform_dly params_exact])]
  rfl

theorem outputs_expansion (r : Row) (s : State) (left : BitVec 12) :
    outputs (eventsSince s.loadBudget (performAll (drowExpansion r s left) s.loadBudget)) =
      outputs (rowEvents Config.params r s) := by
  set ks := keyEvents Config.params r s.cur[r] s.nextSample
  set s₁ := perform Config.params (.scanr r) s.loadBudget with hs₁
  have time : s₁.time = s.time + 15 := by
    rw [hs₁, perform_scanr params_exact, params_tSettle, State.loadBudget_time]
  have scan : outputs (eventsSince s.loadBudget s₁) =
      [⟨s.time, .setLine (.row r) false⟩, ⟨s.time + 15, .setLine (.row r) true⟩] := by
    rw [eventsSince_scanr]
    rfl
  rw [drowExpansion, eventsSince_performAll_cons, eventsSince_performAll_append, outputs_append,
    outputs_append, scan, outputs_eventsSince_emitks, time, rowEvents, outputs_append]
  have dly := outputs_eventsSince_dly left (performAll (ks.map (fun k => .emitk k.1 k.2)) s₁)
  rw [performAll_cons]
  simp only [performAll, List.foldl_nil] at dly ⊢
  rw [dly, List.append_nil]
  rfl

/-- What DROW of row `r` that sends `n` bytes does to the registers (R165), but for the response. -/
structure RowDone (r : Row) (n : Nat) (s t : State) : Prop where
  time : t.time = s.time + 15 + n * 660 + (budgetAfter Config.params 4000 n).toNat
  budget : t.budget = budgetAfter Config.params 4000 n
  clk : t.clk = if n = 0 then s.clk else true
  data : t.data = if n = 0 then s.data else true
  cur : t.cur = put s.cur r s.nextSample
  prev : t.prev = put s.prev r s.cur[r]
  row : t.row = put s.row r true
  strobed : t.strobed = put s.strobed r true

theorem rowDone_drow (r : Row) (s : State) :
    RowDone r (rowBytes Config.params r s).length s (perform Config.params (.drow r) s) := by
  rw [perform_drow params_exact]
  constructor <;> rfl

theorem rowDone_expansion (r : Row) (s : State) :
    RowDone r (rowBytes Config.params r s).length s
      (performAll (drowExpansion r s
        (budgetAfter Config.params 4000 (rowBytes Config.params r s).length)) s.loadBudget) := by
  have sent := sentBytes_emitks (keyEvents Config.params r s.cur[r] s.nextSample)
    (perform Config.params (.scanr r) s.loadBudget)
  rw [perform_scanr params_exact] at sent
  rw [drowExpansion, performAll_cons, performAll_append, performAll_cons, perform_dly params_exact,
    perform_scanr params_exact]
  constructor
  · exact congrArg (· + _) sent.time
  · exact sent.budget
  · exact sent.clk
  · exact sent.data
  · exact sent.cur
  · exact sent.prev
  · exact sent.row
  · exact sent.strobed

/-- Settles O43: a composite shows what its parts show, less their `done` pulses and what no command
shows. -/
theorem compositesEqualTheirExpansions : Obligations.CompositesEqualTheirExpansions := by
  refine ⟨fun v s => ⟨_, _, exec_eq_perform _ s, execAll_eq_performAll _ s, emitb_expansion v s⟩,
    fun k code s => ⟨_, _, exec_eq_perform _ s, execAll_eq_performAll _ s, emitk_expansion k code s⟩,
    fun r s => ?_⟩
  have done := rowDone_drow r s
  have parts := rowDone_expansion r s
  rw [← done.budget] at parts
  refine ⟨_, _, exec_eq_perform _ s, execAll_eq_performAll _ _, ?_, done.time.trans parts.time.symm,
    done.clk.trans parts.clk.symm, done.data.trans parts.data.symm, done.cur.trans parts.cur.symm,
    done.prev.trans parts.prev.symm, done.row.trans parts.row.symm,
    done.strobed.trans parts.strobed.symm, done.budget.trans parts.budget.symm⟩
  rw [eventsSince_drow params_exact, outputs_append]
  exact (List.append_nil _).trans (outputs_expansion r s _).symm

end Sys2Proof.Machine
end

section
/-! RUN's loop, turn by turn (42_translator_dispatcher.md R166, 70_reset_and_hazards.md R240). -/

namespace Sys2Proof.Machine

open Sys2Proof

/-- Settles O45: a turn is DROW's acts and the next row; DROW adds its completion to the same acts.
-/
theorem runTurnIsDrowOfRowIdx : Obligations.RunTurnIsDrowOfRowIdx := by
  intro s hm ha hr
  have rsp : (runActs Config.params (scriptDrow Config.params s.rowIdx) s).rsp = s.rsp := by
    rw [runActs_drow params_exact]
  have rowIdx : (runActs Config.params (scriptDrow Config.params s.rowIdx) s).rowIdx = s.rowIdx := by
    rw [runActs_drow params_exact]
  obtain ⟨mode, client, resets⟩ := turn_keeps (p := Config.params) s
  refine ⟨_, _, step_turn hm ha hr, exec_eq_perform _ s, ?_, mode.trans hm, atRest_turn hm, ?_⟩
  · simp only [turn_eq ha, State.advanceRow_rowIdx, rowIdx]
  · rw [client, resets, hr]
    simp only [turn_eq ha, State.advanceRow_rsp, rsp, perform_eq (i := .drow s.rowIdx) (by simp)]
    simp [script, complete]

/-- What is kept from turn to turn. -/
def Looping (s : State) : Prop := s.mode = .run ∧ AtRest s ∧ s.resets = []

theorem looping_turn {s : State} (h : Looping s) : Looping (s.turn Config.params) := by
  obtain ⟨hm, -, hr⟩ := h
  obtain ⟨mode, -, resets⟩ := turn_keeps (p := Config.params) s
  exact ⟨mode.trans hm, atRest_turn hm, resets.trans hr⟩

theorem rowIdx_turn {s : State} (h : Looping s) :
    (s.turn Config.params).rowIdx = s.rowIdx + 1 := by
  rw [turn_eq h.2.1, State.advanceRow_rowIdx, runActs_drow params_exact]

/-- A turn takes at least 4015 µs, and at most what 18 bytes take (R168, R240). -/
theorem time_turn {s : State} (h : Looping s) :
    s.time + 4015 ≤ (s.turn Config.params).time ∧
      (s.turn Config.params).time ≤ s.time + 11895 := by
  have bytes : (rowBytes Config.params s.rowIdx s).length ≤ 18 := length_rowBytes_le ..
  have time : (s.turn Config.params).time =
      s.time + drowTimeDefault (rowBytes Config.params s.rowIdx s).length := by
    rw [turn_eq h.2.1, ← drowTime_params]
    exact time_drow params_exact s.rowIdx s
  rw [time, drowTimeDefault]
  split <;> omega

/-- `k` turns (R26, R166): the row moves on by `k`, and each turn takes its time. -/
theorem runFor_looping (k : Nat) {s : State} (h : Looping s) :
    ∃ t, runFor k s = .next t ∧ Looping t ∧ t.rowIdx.val = (s.rowIdx.val + k) % 8 ∧
      t.client = s.client ∧ s.time + k * 4015 ≤ t.time ∧ t.time ≤ s.time + k * 11895 := by
  induction k generalizing s with
  | zero => exact ⟨s, rfl, h, by omega, rfl, by omega, by omega⟩
  | succ k ih =>
    obtain ⟨t, hrun, hloop, hrow, hclient, hlo, hhi⟩ := ih (looping_turn h)
    obtain ⟨tlo, thi⟩ := time_turn h
    have row : (s.turn Config.params).rowIdx.val = (s.rowIdx.val + 1) % 8 := by
      rw [rowIdx_turn h, Fin.val_add]
      rfl
    refine ⟨t, ?_, hloop, by omega, hclient.trans (turn_keeps s).2.1, by omega, by omega⟩
    rw [runFor, step_turn h.1 h.2.1 h.2.2]
    exact hrun

/-- Settles O46: induction over the turns. -/
theorem runIsRoundRobin : Obligations.RunIsRoundRobin := by
  intro k s hm ha hr
  obtain ⟨t, hrun, ⟨htm, hta, -⟩, hrow, hclient, -, -⟩ := runFor_looping k ⟨hm, ha, hr⟩
  exact ⟨t, hrun, htm, hta, hrow, hclient⟩

/-- Settles O47: eight turns, each within its bounds. -/
theorem revisitTimeIsBounded : Obligations.RevisitTimeIsBounded := by
  intro s hm ha hr
  obtain ⟨t, hrun, -, hrow, -, hlo, hhi⟩ := runFor_looping 8 (s := s) ⟨hm, ha, hr⟩
  exact ⟨t, hrun, Fin.ext (by omega), by omega, by omega⟩

end Sys2Proof.Machine
end

section
/-! Two blocks with different parameters side by side (70_reset_and_hazards.md R246, R247): what
they show and hold in common, and by how much they differ in time. -/

namespace Sys2Proof.Machine

open Sys2Proof

variable {p q : Config.Params}

/-! ## What a primitive shows and what it leaves -/

/-- The events of a primitive, all of the microsecond in which it begins. -/
def Prim.shows (p : Config.Params) : Prim → State → List EventKind
  | .setLine l v, _ => [.setLine l v]
  | .capture r, s => [.sample r s.nextSample, .setLine (.row r) true]
  | .mirror b, _ => [.mirror b]
  | .ind e, _ => [.ind e]
  | .replyChanged r, s => [.rsp ((BitVec.ofBool (s.rowChanged r)).setWidth 9)]
  | .replyTransition r c, s => [.rsp ((transitionCode (s.cellTransition r c)).setWidth 9)]
  | .replyEntry r c, _ => [.rsp (p.table r c)]
  | _, _ => []

theorem Prim.run_trace (x : Prim) (s : State) :
    (x.run p s).trace = s.trace ++ (x.shows p s).map (fun k => ⟨s.time, k⟩) := by
  cases x with
  | setLine l v => exact State.setLine_trace s l v
  | wait n => rw [Prim.run, wait_eq]; exact (List.append_nil _).symm
  | waitBudget => rw [Prim.run, wait_eq]; exact (List.append_nil _).symm
  | capture r => rw [Prim.run, capture_eq]; rfl
  | mirror b => rfl
  | ind e => rfl
  | replyChanged r => rfl
  | replyTransition r c => rfl
  | replyEntry r c => rfl
  | _ => exact (List.append_nil _).symm

/-- The state less what the parameters of R246 and R247 may change, and less what no operation
touches. -/
def State.visible (s : State) : State :=
  { s with
    budget := 0, time := 0, rsp := 0, trace := [], draws := 0
    inflight := none, client := [], resets := [] }

/-- What SCANR's capture of the sample `v` leaves of the visible state. -/
def State.captured (r : Row) (v : RowState) (s : State) : State :=
  { s with
    row := put s.row r true
    prev := put s.prev r s.cur[r]
    cur := put s.cur r v
    strobed := put s.strobed r true
    samples := s.samples.tail }

theorem visible_wait (n : Nat) (s : State) : (s.wait p n).visible = s.visible := by
  rw [wait_eq]
  rfl

theorem visible_capture (r : Row) (s : State) :
    (s.capture r).visible = (s.visible.captured r s.nextSample) := by
  rw [capture_eq]
  rfl

/-- What a primitive other than the capture leaves of the visible state depends on that alone. -/
theorem visible_prim {x : Prim} (hx : ∀ r, x ≠ .capture r) (hcur : p.curReset = q.curReset) (s : State) :
    (x.run p s).visible = (x.run q s.visible).visible := by
  cases x with
  | setLine l v => cases l <;> rfl
  | wait n => exact (visible_wait n s).trans (visible_wait n s.visible).symm
  | waitBudget => exact (visible_wait _ s).trans (visible_wait _ s.visible).symm
  | capture r => exact absurd rfl (hx r)
  | clearRow r => rw [Prim.run, State.clearRow, hcur]; rfl
  | _ => rfl

theorem shows_visible {x : Prim} (hx : ∀ r, x ≠ .capture r) (htable : p.table = q.table) (s : State) :
    x.shows p s = x.shows q s.visible := by
  cases x with
  | capture r => exact absurd rfl (hx r)
  | replyEntry r c => rw [Prim.shows, htable]; rfl
  | _ => rfl

/-! ## Blocks that show the same -/

/-- The two blocks have shown the same, at whatever times, and hold the same. -/
structure Alike (a b : State) : Prop where
  visible : a.visible = b.visible
  kinds : kinds a.trace = kinds b.trace

theorem Alike.registers {a b : State} (h : Alike a b) :
    a.cur = b.cur ∧ a.prev = b.prev ∧ a.row = b.row ∧ a.clk = b.clk ∧ a.data = b.data ∧
      a.rowIdx = b.rowIdx ∧ a.mode = b.mode ∧ a.strobed = b.strobed ∧ a.samples = b.samples := by
  have v := h.visible
  simp only [State.visible, State.mk.injEq] at v
  obtain ⟨cur, prev, row, clk, data, -, rowIdx, -, mode, strobed, -, -, -, -, samples, -⟩ := v
  exact ⟨cur, prev, row, clk, data, rowIdx, mode, strobed, samples⟩

theorem Alike.samples {a b : State} (h : Alike a b) : a.samples = b.samples := by
  obtain ⟨-, -, -, -, -, -, -, -, hs⟩ := h.registers
  exact hs

theorem Alike.refl (s : State) : Alike s s := ⟨rfl, rfl⟩

theorem kinds_append (es fs : List Event) : kinds (es ++ fs) = kinds es ++ kinds fs := List.map_append

theorem kinds_map (t : Nat) (ks : List EventKind) : kinds (ks.map (fun k => ⟨t, k⟩)) = ks := by
  induction ks with
  | nil => rfl
  | cons k ks ih => exact congrArg (k :: ·) ih

theorem shows_alike {a b : State} (h : Alike a b) (x : Prim) (htable : p.table = q.table)
    (hs : ∀ r, x = .capture r → a.nextSample = b.nextSample) : x.shows p a = x.shows q b := by
  by_cases hx : ∃ r, x = .capture r
  · obtain ⟨r, rfl⟩ := hx
    rw [Prim.shows, Prim.shows, hs r rfl]
  · have hx' := not_exists.mp hx
    rw [shows_visible hx' htable a, h.visible]
    exact (shows_visible hx' rfl b).symm

/-- A primitive does the same in both blocks, if it is given the same sample. -/
theorem alike_prim {a b : State} (h : Alike a b) (x : Prim) (hcur : p.curReset = q.curReset)
    (htable : p.table = q.table) (hs : ∀ r, x = .capture r → a.nextSample = b.nextSample) :
    Alike (x.run p a) (x.run q b) where
  visible := by
    by_cases hx : ∃ r, x = .capture r
    · obtain ⟨r, rfl⟩ := hx
      rw [Prim.run, Prim.run, visible_capture, visible_capture, h.visible, hs r rfl]
    · have hx' := not_exists.mp hx
      rw [visible_prim hx' hcur a, h.visible]
      exact (visible_prim hx' rfl b).symm
  kinds := by
    rw [x.run_trace, x.run_trace, kinds_append, kinds_append, kinds_map, kinds_map, h.kinds,
      shows_alike h x htable hs]

theorem alike_emit {a b : State} (h : Alike a b) (k : EventKind) : Alike (a.emit k) (b.emit k) :=
  ⟨h.visible, by rw [State.emit_trace, State.emit_trace, kinds_append, kinds_append, h.kinds]; rfl⟩

theorem alike_complete {a b : State} (h : Alike a b) (i : Instr) :
    Alike (complete i a) (complete i b) := by
  have silent : Alike a.finishSilent b.finishSilent :=
    alike_emit (a := { a with rsp := Config.freeResponse a.draws, draws := a.draws + 1 })
      (b := { b with rsp := Config.freeResponse b.draws, draws := b.draws + 1 })
      ⟨h.visible, h.kinds⟩ .done
  cases i with
  | run => exact h
  | rchg r => exact alike_emit h .done
  | ctrn r c => exact alike_emit h .done
  | xlat r c => exact alike_emit h .done
  | _ => exact silent

theorem kinds_eventsSince {s a b : State} (h : Alike a b) :
    kinds (eventsSince s a) = kinds (eventsSince s b) := by
  simp only [kinds, eventsSince, List.map_drop]
  exact congrArg (List.drop _) h.kinds

theorem columnPrims_alike {a b : State} (h : Alike a b)
    (hcol : ∀ r prev cur, scriptColumns p r prev cur = scriptColumns q r prev cur) (r : Row) :
    a.columnPrims p r = b.columnPrims q r := by
  obtain ⟨hcur, hprev, -⟩ := h.registers
  rw [State.columnPrims, State.columnPrims, hcol, hcur, hprev]

/-! ## Samples still to be taken -/

/-- How many samples a primitive takes. -/
def Prim.captures : Prim → Nat
  | .capture _ => 1
  | _ => 0

/-- How many samples an act takes: the columns of a row take none. -/
def Act.captures : Act → Nat
  | .prim a => a.captures
  | .columns _ => 0

theorem captures_of_strobeless {x : Prim} (h : x.strobeless = true) : x.captures = 0 := by
  cases x with
  | capture r => cases h
  | _ => rfl

theorem sum_captures_of_strobeless {as : List Prim} (h : ∀ a ∈ as, a.strobeless = true) :
    ((as.map Act.prim).map Act.captures).sum = 0 := by
  induction as with
  | nil => rfl
  | cons a as ih =>
    rw [List.map_cons, List.map_cons, List.sum_cons, ih fun b hb => h b (List.mem_cons_of_mem a hb)]
    exact captures_of_strobeless (h a List.mem_cons_self)

/-- An operation takes one sample at most. -/
theorem captures_script_le (i : Instr) : ((script p i).map Act.captures).sum ≤ 1 := by
  cases i with
  | sendb v => exact (sum_captures_of_strobeless (strobeless_sendb v)).le.trans zero_le_one
  | emitb v => exact (sum_captures_of_strobeless (strobeless_emitb v)).le.trans zero_le_one
  | emitk k code => exact (sum_captures_of_strobeless (strobeless_emitk k code)).le.trans zero_le_one
  | scanr r => exact le_rfl
  | drow r => exact le_rfl
  | init => exact zero_le_one
  | _ => exact zero_le_one

/-! ## A relation of two blocks, from primitive to operation -/

/-- A relation, given the samples still to be taken, that primitives keep. -/
structure KeptByPrims (p q : Config.Params) (R : Nat → State → State → Prop) : Prop where
  prim : ∀ (x : Prim) (n : Nat) (a b : State), R (x.captures + n) a b → R n (x.run p a) (x.run q b)
  alike : ∀ (n : Nat) (a b : State), R n a b → Alike a b

theorem kept_runPrims {R : Nat → State → State → Prop} (h : KeptByPrims p q R) (as : List Prim)
    (has : ∀ a ∈ as, a.strobeless = true) {n : Nat} {a b : State} (hr : R n a b) :
    R n (runPrims p as a) (runPrims q as b) := by
  induction as generalizing a b with
  | nil => exact hr
  | cons x as ih =>
    have none := captures_of_strobeless (has x List.mem_cons_self)
    refine ih (fun y hy => has y (List.mem_cons_of_mem x hy)) (h.prim x n a b ?_)
    rwa [none, Nat.zero_add]

theorem kept_runActs {R : Nat → State → State → Prop} (h : KeptByPrims p q R)
    (hcol : ∀ r prev cur, scriptColumns p r prev cur = scriptColumns q r prev cur) (as : List Act)
    {n : Nat} {a b : State} (hr : R ((as.map Act.captures).sum + n) a b) :
    R n (runActs p as a) (runActs q as b) := by
  induction as generalizing a b with
  | nil =>
    rw [List.map_nil, List.sum_nil, Nat.zero_add] at hr
    exact hr
  | cons x as ih =>
    rw [List.map_cons, List.sum_cons, Nat.add_assoc] at hr
    cases x with
    | prim x => exact ih (h.prim x _ a b hr)
    | columns r =>
      rw [Act.captures, Nat.zero_add] at hr
      have same := columnPrims_alike (h.alike _ a b hr) hcol r
      refine ih ?_
      rw [Act.run, Act.run, ← same]
      exact kept_runPrims h _ (strobeless_columns r _ _) hr

/-! ## T_DEDUCT -/

/-- The two blocks are alike and have taken as many free values. -/
def AlikeInDraws (_ : Nat) (a b : State) : Prop := Alike a b ∧ a.draws = b.draws

theorem nextSample_of_samples {a b : State} (hs : a.samples = b.samples) (hd : a.draws = b.draws) :
    a.nextSample = b.nextSample := by
  rw [State.nextSample, State.nextSample, hs, hd]

theorem draws_wait (hmode : p.delayMode = q.delayMode) {a b : State} (h : a.draws = b.draws) (m n : Nat) :
    (a.wait p m).draws = (b.wait q n).draws := by
  unfold State.wait State.waitTime
  rw [hmode]
  cases q.delayMode <;> simp [h]

theorem kept_alikeInDraws (d : Nat) : KeptByPrims p { p with tDeduct := d } AlikeInDraws where
  alike _ _ _ h := h.1
  prim x n a b h := by
    obtain ⟨h, hd⟩ := h
    have hs := h.samples
    refine ⟨alike_prim h x rfl rfl fun _ _ => nextSample_of_samples hs hd, ?_⟩
    cases x with
    | setLine l v => simpa [Prim.run] using hd
    | wait m => exact draws_wait rfl hd m m
    | waitBudget => exact draws_wait rfl hd _ _
    | capture r =>
      rw [Prim.run, Prim.run, capture_eq, capture_eq]
      simp [State.sampleDraws, hs, hd]
    | _ => exact hd

theorem alike_deduction (p : Config.Params) (d : Nat) (i : Instr) (s : State) :
    Alike (perform p i s) (perform { p with tDeduct := d } i s) := by
  by_cases hi : i = .run
  · subst hi
    exact .refl _
  · rw [perform_eq hi, perform_eq hi]
    refine alike_complete ?_ i
    have same : script { p with tDeduct := d } i = script p i := by cases i <;> rfl
    rw [same]
    exact (kept_runActs (n := 0) (kept_alikeInDraws d) (fun _ _ _ => rfl) (script p i) ⟨.refl s, rfl⟩).1

/-- Settles O50: the two blocks are alike, primitive by primitive. -/
theorem deductionChangesOnlyTimes : Obligations.DeductionChangesOnlyTimes := by
  intro p d i s
  have h := alike_deduction p d i s
  exact ⟨kinds_eventsSince h, h.registers⟩

/-! ## DELAY_MODE -/

/-- The two blocks are alike, the second is never ahead of the first, and the matrix has `n` answers
listed. -/
structure Later (n : Nat) (a b : State) : Prop where
  alike : Alike a b
  events : List.Forall₂ (fun x y : Event => x.time ≤ y.time) a.trace b.trace
  time : a.time ≤ b.time
  budget : a.budget = b.budget
  listed : n ≤ a.samples.length

theorem nextSample_of_listed {a b : State} (hs : a.samples = b.samples) (h : 1 ≤ a.samples.length) :
    a.nextSample = b.nextSample := by
  rw [State.nextSample, State.nextSample, ← hs]
  cases ha : a.samples with
  | nil => rw [ha] at h; cases h
  | cons v vs => rfl

theorem forall₂_map_time {t u : Nat} (h : t ≤ u) (ks : List EventKind) :
    List.Forall₂ (fun x y : Event => x.time ≤ y.time) (ks.map (fun k => ⟨t, k⟩))
      (ks.map (fun k => ⟨u, k⟩)) := by
  induction ks with
  | nil => exact .nil
  | cons k ks ih => exact .cons h ih

theorem time_prim (hp : p.delayMode = .exact) (x : Prim) {a b : State} (ht : a.time ≤ b.time)
    (hb : a.budget = b.budget) : (x.run p a).time ≤ (x.run q b).time := by
  have wait : ∀ n, (a.wait p n).time ≤ (b.wait q n).time := fun n => by
    rw [wait_exact hp]
    exact (Nat.add_le_add_right ht n).trans (wait_time_le n b)
  cases x with
  | setLine l v => simpa [Prim.run] using ht
  | wait n => exact wait n
  | waitBudget => rw [Prim.run, Prim.run, ← hb]; exact wait _
  | delay n => exact Nat.add_le_add_right ht n
  | capture r => rw [Prim.run, Prim.run, capture_eq, capture_eq]; exact ht
  | _ => exact ht

theorem wait_budget (n : Nat) (s : State) : (s.wait p n).budget = s.budget := by rw [wait_eq]

theorem budget_prim (hd : p.tDeduct = q.tDeduct) (x : Prim) {a b : State} (hb : a.budget = b.budget) :
    (x.run p a).budget = (x.run q b).budget := by
  cases x with
  | setLine l v => simpa [Prim.run] using hb
  | wait n => exact (wait_budget n a).trans (hb.trans (wait_budget n b).symm)
  | waitBudget => exact (wait_budget _ a).trans (hb.trans (wait_budget _ b).symm)
  | capture r => rw [Prim.run, Prim.run, capture_eq, capture_eq]; exact hb
  | charge => rw [Prim.run, Prim.run, State.charge_budget, State.charge_budget, hb, hd]
  | loadBudget => rfl
  | _ => exact hb

theorem listed_prim (x : Prim) {n : Nat} {s : State} (h : x.captures + n ≤ s.samples.length) :
    n ≤ (x.run p s).samples.length := by
  cases x with
  | setLine l v => simpa [Prim.run, Prim.captures] using h
  | wait m => rw [Prim.run, wait_eq]; exact (Nat.zero_add n).symm.le.trans h
  | waitBudget => rw [Prim.run, wait_eq]; exact (Nat.zero_add n).symm.le.trans h
  | capture r =>
    rw [Prim.run, capture_eq, List.length_tail]
    exact Nat.le_sub_of_add_le ((Nat.add_comm n 1).le.trans h)
  | _ => exact (Nat.zero_add n).symm.le.trans h

theorem kept_later (hp : p.delayMode = .exact) (hcur : p.curReset = q.curReset)
    (htable : p.table = q.table) (hdeduct : p.tDeduct = q.tDeduct) : KeptByPrims p q Later where
  alike _ _ _ h := h.alike
  prim x n a b h := by
    have sample : ∀ r, x = .capture r → a.nextSample = b.nextSample := by
      rintro r rfl
      exact nextSample_of_listed h.alike.samples ((Nat.le_add_right 1 n).trans h.listed)
    refine ⟨alike_prim h.alike x hcur htable sample, ?_, time_prim hp x h.time h.budget,
      budget_prim hdeduct x h.budget, listed_prim x h.listed⟩
    rw [x.run_trace, x.run_trace, shows_alike h.alike x htable sample]
    exact List.rel_append h.events (forall₂_map_time h.time _)

theorem later_complete {n : Nat} {a b : State} (h : Later n a b) (i : Instr) :
    Later n (complete i a) (complete i b) := by
  have alike := alike_complete h.alike i
  have events : List.Forall₂ (fun x y : Event => x.time ≤ y.time)
      (a.trace ++ [⟨a.time, .done⟩]) (b.trace ++ [⟨b.time, .done⟩]) :=
    List.rel_append h.events (.cons h.time .nil)
  cases i with
  | run => exact h
  | _ => exact ⟨alike, events, h.time, h.budget, h.listed⟩

theorem later_perform (p : Config.Params) (i : Instr) {s : State} (hs : s.samples ≠ []) :
    Later 0 (perform { p with delayMode := .exact } i s)
      (perform { p with delayMode := .atLeast } i s) := by
  have same : ∀ n, n ≤ s.samples.length → Later n s s := fun n hn =>
    ⟨.refl s, List.forall₂_same.mpr fun _ _ => le_rfl, le_rfl, rfl, hn⟩
  by_cases hi : i = .run
  · subst hi
    have start := same 0 (Nat.zero_le _)
    exact ⟨.refl _, start.events, le_rfl, rfl, Nat.zero_le _⟩
  · rw [perform_eq hi, perform_eq hi]
    refine later_complete ?_ i
    have script : script { p with delayMode := .atLeast } i =
        script { p with delayMode := .exact } i := by cases i <;> rfl
    rw [script]
    have kept : KeptByPrims { p with delayMode := .exact } { p with delayMode := .atLeast } Later :=
      kept_later rfl rfl rfl rfl
    refine kept_runActs kept (fun _ _ _ => rfl) _ (same _ ?_)
    exact (captures_script_le i).trans (List.length_pos_iff.mpr hs)

/-- Settles O49: with the sample given, the second block is the first, never ahead of it. -/
theorem atLeastChangesOnlyTimes : Obligations.AtLeastChangesOnlyTimes := by
  intro p i s hs
  have h := later_perform p i hs
  obtain ⟨cur, prev, row, clk, data, rest⟩ := h.alike.registers
  exact ⟨kinds_eventsSince h.alike, List.forall₂_drop _ h.events, h.time, cur, prev, row, clk, data,
    h.budget, rest⟩

end Sys2Proof.Machine
end

section
/-! Fine steps (10_state.md R27): primitive by primitive and microsecond by microsecond an operation
does what the atomic step does, and is seen in its slot and phase on the way. -/

namespace Sys2Proof.Machine

open Sys2Proof

variable {p : Config.Params}

/-! ## Fine steps one after another -/

/-- Some number of fine steps leads from `s` to `t`. -/
def Reaches (p : Config.Params) (s t : State) : Prop := ∃ k, State.microRun p k s = some t

theorem Reaches.refl (s : State) : Reaches p s s := ⟨0, rfl⟩

theorem Reaches.step {s t u : State} (h : s.microStep p = .next t) (g : Reaches p t u) :
    Reaches p s u := by
  obtain ⟨k, hk⟩ := g
  exact ⟨k + 1, by rw [State.microRun, h]; exact hk⟩

theorem Reaches.trans {s t u : State} (h : Reaches p s t) (g : Reaches p t u) : Reaches p s u := by
  obtain ⟨k, hk⟩ := h
  induction k generalizing s with
  | zero =>
    cases hk
    exact g
  | succ k ih =>
    rw [State.microRun] at hk
    split at hk
    · next s' hs => exact .step hs (ih hk)
    · cases hk

/-- With no rst to come, the operation in flight does what it does next. -/
theorem reaches_advance {s : State} {f : Flight} (hf : s.inflight = some f) (hr : s.resets = []) :
    Reaches p s (s.advance p f) :=
  .step (by rw [State.microStep, hr, hf]; rfl) (.refl _)

variable {f : Flight}

theorem reaches_next (s : State) (as : List Act) (hr : s.resets = []) :
    Reaches p (s.withRest f as) ((s.withRest f as).advance p { f with rest := as }) :=
  reaches_advance rfl hr

/-- What is left of a wait, to its end. -/
theorem reaches_delay (n : Nat) (as : List Act) {s : State} (hr : s.resets = []) :
    Reaches p (s.withRest f (.prim (.delay n) :: as)) ((s.pass n).withRest f as) := by
  induction n generalizing s with
  | zero => exact reaches_next s _ hr
  | succ n ih =>
    have first : Reaches p (s.withRest f (.prim (.delay (n + 1)) :: as))
        ((s.pass 1).withRest f (.prim (.delay n) :: as)) := reaches_next s _ hr
    have split : (s.pass 1).pass n = s.pass (n + 1) := by
      simp [State.pass, Nat.add_assoc, Nat.add_comm 1 n]
    rw [← split]
    exact first.trans (ih hr)

/-- What is left of a wait, up to a microsecond inside it. -/
theorem reaches_into_delay (n d : Nat) (as : List Act) {s : State} (hr : s.resets = []) :
    Reaches p (s.withRest f (.prim (.delay (d + n)) :: as))
      ((s.pass d).withRest f (.prim (.delay n) :: as)) := by
  induction d generalizing s with
  | zero =>
    rw [Nat.zero_add]
    exact .refl _
  | succ d ih =>
    have first : Reaches p (s.withRest f (.prim (.delay (d + n + 1)) :: as))
        ((s.pass 1).withRest f (.prim (.delay (d + n)) :: as)) :=
      reaches_next s _ hr
    have split : (s.pass 1).pass d = s.pass (d + 1) := by
      simp [State.pass, Nat.add_assoc, Nat.add_comm 1 d]
    rw [← split, Nat.add_right_comm]
    exact first.trans (ih hr)

theorem waitTime_resets (n : Nat) (s : State) : (s.waitTime p n).2.resets = s.resets := by
  unfold State.waitTime
  cases p.delayMode <;> rfl

/-- A wait begins, and what it takes passes. -/
theorem reaches_wait (n : Nat) (as : List Act) {s : State} (hr : s.resets = []) :
    Reaches p ((s.waitTime p n).2.withRest f (.prim (.delay (s.waitTime p n).1) :: as))
      ((s.wait p n).withRest f as) :=
  reaches_delay _ as ((waitTime_resets n s).trans hr)

theorem waitTime_withRest (n : Nat) (s : State) (as bs : List Act) :
    (State.waitTime p n (s.withRest f as)).1 = (s.waitTime p n).1 ∧
      (State.waitTime p n (s.withRest f as)).2.withRest f bs = (s.waitTime p n).2.withRest f bs := by
  unfold State.waitTime
  cases p.delayMode <;> exact ⟨rfl, rfl⟩

/-- A primitive, taken by fine steps, is done whole. -/
theorem reaches_prim (a : Prim) (as : List Act) {s : State} (hr : s.resets = []) :
    Reaches p (s.withRest f (.prim a :: as)) ((a.run p s).withRest f as) := by
  have next := reaches_next (p := p) (f := f) s (.prim a :: as) hr
  have run := a.run_inflight (p := p) (some { f with rest := .prim a :: as }) s
  cases a with
  | wait n =>
    obtain ⟨h1, h2⟩ := waitTime_withRest (p := p) (f := f) n s (.prim (.wait n) :: as)
      (.prim (.delay (s.waitTime p n).1) :: as)
    refine next.trans ?_
    simp only [State.advance]
    rw [h1]
    exact (congrArg (Reaches p · _) h2).mpr (reaches_wait n as hr)
  | waitBudget =>
    obtain ⟨h1, h2⟩ := waitTime_withRest (p := p) (f := f) s.budget.toNat s (.prim .waitBudget :: as)
      (.prim (.delay (s.waitTime p s.budget.toNat).1) :: as)
    refine next.trans ?_
    simp only [State.advance, State.withRest_budget]
    rw [h1]
    exact (congrArg (Reaches p · _) h2).mpr (reaches_wait s.budget.toNat as hr)
  | delay n => exact reaches_delay n as hr
  | _ => exact (congrArg (fun t => Reaches p _ (State.withRest f as t)) run).mp next

theorem reaches_prims (as : List Prim) (bs : List Act) {s : State} (hr : s.resets = []) :
    Reaches p (s.withRest f (as.map .prim ++ bs)) ((runPrims p as s).withRest f bs) := by
  induction as generalizing s with
  | nil => exact .refl _
  | cons a as ih =>
    obtain ⟨-, -, -, keeps⟩ := a.run_keeps (p := p) s
    exact (reaches_prim a _ hr).trans (ih (keeps.trans hr))

/-- Acts, taken by fine steps, are done whole. -/
theorem reaches_acts (as bs : List Act) {s : State} (hr : s.resets = []) :
    Reaches p (s.withRest f (as ++ bs)) ((runActs p as s).withRest f bs) := by
  induction as generalizing s with
  | nil => exact .refl _
  | cons a as ih =>
    cases a with
    | prim a =>
      obtain ⟨-, -, -, keeps⟩ := a.run_keeps (p := p) s
      exact (reaches_prim a _ hr).trans (ih (keeps.trans hr))
    | columns r =>
      obtain ⟨-, -, -, keeps⟩ := runPrims_keeps (p := p) (s.columnPrims p r) s
      have known : Reaches p (s.withRest f (.columns r :: (as ++ bs)))
          (s.withRest f ((s.columnPrims p r).map .prim ++ (as ++ bs))) := reaches_next s _ hr
      exact known.trans ((reaches_prims _ _ hr).trans (ih (keeps.trans hr)))

/-! ## Whole operations -/

theorem reaches_perform {i : Instr} (hi : i ≠ .run) {s : State} (hf : s.inflight = none)
    (hr : s.resets = []) : Reaches p (s.accept p i) (perform p i s) := by
  obtain ⟨idle, -, -, resets⟩ := runActs_keeps (p := p) (script p i) s
  have acts : Reaches p (s.accept p i) ((runActs p (script p i) s).withRest ⟨i, s.time, []⟩ []) := by
    have h := reaches_acts (p := p) (f := ⟨i, s.time, []⟩) (script p i) [] hr
    rwa [List.append_nil, ← accept_eq hi] at h
  have last := reaches_next (p := p) (f := ⟨i, s.time, []⟩) (runActs p (script p i) s) []
    (resets.trans hr)
  have done : State.advance p ⟨i, s.time, []⟩ ((runActs p (script p i) s).withRest ⟨i, s.time, []⟩ []) =
      complete i { runActs p (script p i) s with inflight := none } := if_neg hi
  rw [done, ← idle.trans hf] at last
  rw [perform_eq hi]
  exact acts.trans last

/-! ## A turn of RUN's loop -/

/-- In mode RUN between two turns, RUN is in flight or is about to be. -/
theorem reaches_run_inflight {s : State} (hm : s.mode = .run) (ha : AtRest s) (hr : s.resets = []) :
    Reaches p s (s.withRest ⟨.run, (s.inflight.map Flight.start).getD s.time, []⟩ []) := by
  rcases ha with hf | ⟨-, t, hf⟩
  · have start : s.microStep p = .next s.startRun := by
      rw [State.microStep, hr, hf, work_turn hm (.inl hf)]
      rfl
    refine .step start ?_
    rw [State.startRun, hf, ← hm]
    exact .refl _
  · have same : s.withRest ⟨.run, t, []⟩ [] = s := by
      rw [State.withRest, ← hf]
    rw [hf]
    exact same.symm ▸ .refl s

theorem reaches_turn {s : State} (hm : s.mode = .run) (ha : AtRest s) (hr : s.resets = []) :
    Reaches p s (s.turn p) := by
  set g : Flight := ⟨.run, (s.inflight.map Flight.start).getD s.time, []⟩ with hg
  have begin : Reaches p (s.withRest g []) (s.withRest g (scriptTurn p s.rowIdx)) :=
    reaches_next s [] hr
  have acts := reaches_acts (p := p) (f := g) (scriptTurn p s.rowIdx) [] hr
  rw [List.append_nil] at acts
  rw [State.turn, turnActs_atRest p ha]
  exact (reaches_run_inflight hm ha hr).trans (begin.trans acts)

/-- Settles O57: each act takes its fine steps, and the last completes the operation or the turn. -/
theorem fineStepsRefineExec : Obligations.FineStepsRefineExec := by
  refine ⟨fun p i s hi hf hr => reaches_perform hi hf hr, exec_eq_perform, fun s hm ha hr => ?_⟩
  obtain ⟨k, hk⟩ := reaches_turn (p := Config.params) hm ha hr
  exact ⟨k, _, hk, step_turn hm ha hr⟩

/-! ## A frame on the way -/

/-- Inside a wait, after the primitives before it. -/
theorem reaches_into_wait (h : p.delayMode = .exact) (as bs : List Prim) (n d : Nat) {s : State}
    (hr : s.resets = []) :
    Reaches p (s.withRest f ((as ++ .wait (d + n) :: bs).map .prim))
      (((runPrims p as s).pass d).withRest f (.prim (.delay n) :: bs.map .prim)) := by
  obtain ⟨-, -, -, keeps⟩ := runPrims_keeps (p := p) as s
  have before := reaches_prims (p := p) (f := f) as ((Prim.wait (d + n) :: bs).map .prim) hr
  rw [← List.map_append] at before
  have begin : Reaches p ((runPrims p as s).withRest f (.prim (.wait (d + n)) :: bs.map .prim))
      ((runPrims p as s).withRest f (.prim (.delay (d + n)) :: bs.map .prim)) := by
    have next := reaches_next (p := p) (f := f) (runPrims p as s)
      (.prim (.wait (d + n)) :: bs.map .prim) (keeps.trans hr)
    simpa [State.advance, State.waitTime, h, State.withRest] using next
  exact before.trans (begin.trans (reaches_into_delay n d _ (keeps.trans hr)))

/-- Slots, whole, take 60 µs each and leave the clock released. -/
theorem runPrims_slots (h : p.delayMode = .exact) (bits : List Level) {s : State} (hc : s.clk = true) :
    (runPrims p (bits.flatMap scriptSlot) s).time = s.time + 60 * bits.length ∧
      (runPrims p (bits.flatMap scriptSlot) s).clk = true := by
  induction bits generalizing s with
  | nil => exact ⟨rfl, hc⟩
  | cons b bits ih =>
    rw [List.flatMap_cons, runPrims_append, runPrims_slot h, List.length_cons]
    obtain ⟨time, clk⟩ := ih (s := { s with
      clk := true, data := b, time := s.time + 60
      trace := s.trace ++ [⟨s.time, .setLine .data b⟩, ⟨s.time + 15, .setLine .clk false⟩,
        ⟨s.time + 45, .setLine .clk true⟩] }) rfl
    exact ⟨time.trans (by dsimp only; omega), clk⟩

/-- Inside a slot, whatever comes before and after it: at phase `ph` the clock is low from 15 to 44.
-/
theorem reaches_phase (h : p.delayMode = .exact) (pre post : List Prim) (b : Level) {ph : Nat}
    (hph : ph < 60) {s : State} (hr : s.resets = []) (hc : (runPrims p pre s).clk = true) :
    ∃ (u : State) (rest : List Act),
      Reaches p (s.withRest f ((pre ++ (scriptSlot b ++ post)).map .prim)) (u.withRest f rest) ∧
      u.time = (runPrims p pre s).time + ph ∧ u.data = b ∧
      u.clk = !(decide (15 ≤ ph) && decide (ph < 45)) := by
  by_cases h15 : ph < 15
  · have reach := reaches_into_wait (f := f) h (pre ++ [.setLine .data b])
      ([.setLine .clk false, .wait 30, .setLine .clk true, .wait 15] ++ post) (15 - ph) ph hr
    rw [Nat.add_sub_of_le h15.le, runPrims_append, List.append_assoc] at reach
    refine ⟨_, _, reach, rfl, rfl, ?_⟩
    simpa [runPrims, Prim.run, Nat.not_le.mpr h15] using hc
  by_cases h45 : ph < 45
  · have reach := reaches_into_wait (f := f) h
      (pre ++ [.setLine .data b, .wait 15, .setLine .clk false])
      ([.setLine .clk true, .wait 15] ++ post) (45 - ph) (ph - 15) hr
    rw [show ph - 15 + (45 - ph) = 30 by omega, runPrims_append, List.append_assoc] at reach
    refine ⟨_, _, reach, ?_, ?_, ?_⟩
    · simp [runPrims, Prim.run, wait_exact h]
      omega
    · simp [runPrims, Prim.run, wait_exact h]
    · simp [runPrims, Prim.run, wait_exact h, h45, Nat.not_lt.mp h15]
  · have reach := reaches_into_wait (f := f) h
      (pre ++ [.setLine .data b, .wait 15, .setLine .clk false, .wait 30, .setLine .clk true])
      post (60 - ph) (ph - 45) hr
    rw [show ph - 45 + (60 - ph) = 15 by omega, runPrims_append, List.append_assoc] at reach
    refine ⟨_, _, reach, ?_, ?_, ?_⟩
    · simp [runPrims, Prim.run, wait_exact h]
      omega
    · simp [runPrims, Prim.run, wait_exact h]
    · simp [runPrims, Prim.run, wait_exact h, h45]

/-- A frame's script around its slot `k`. -/
theorem scriptSendb_split (v : Byte) {k : Nat} (hk : k < 11) :
    scriptSendb v = ((frameBits v).take k).flatMap scriptSlot ++
      (scriptSlot ((frameBits v).getD k true) ++ ((frameBits v).drop (k + 1)).flatMap scriptSlot) := by
  have hlen : k < (frameBits v).length := hk
  rw [← List.flatMap_cons, ← List.flatMap_append, List.getD_eq_getElem _ _ hlen,
    ← List.drop_eq_getElem_cons hlen, List.take_append_drop]
  rfl

/-- Settles O58: slot `d / 60` begins after the slots before it, and phase `d % 60` lies in one of
its waits. -/
theorem fineStepsShowSlotAndPhase : Obligations.FineStepsShowSlotAndPhase := by
  intro v s d hf hr hc hd
  have hslot : d / 60 < 11 := by omega
  obtain ⟨time, clk⟩ := runPrims_slots params_exact ((frameBits v).take (d / 60)) hc
  obtain ⟨u, rest, ⟨k, hk⟩, htime, hdata, hclk⟩ := reaches_phase (f := ⟨.sendb v, s.time, []⟩)
    params_exact (((frameBits v).take (d / 60)).flatMap scriptSlot)
    (((frameBits v).drop (d / 60 + 1)).flatMap scriptSlot) ((frameBits v).getD (d / 60) true)
    (Nat.mod_lt d (by decide : 0 < 60)) hr clk
  rw [← scriptSendb_split v hslot] at hk
  have hlen : ((frameBits v).take (d / 60)).length = d / 60 := by
    rw [List.length_take]
    exact min_eq_left hslot.le
  refine ⟨k, _, hk, ?_, rfl, hdata, hclk⟩
  rw [hlen] at time
  have elapsed : u.time - s.time = d := by omega
  exact congrArg some elapsed

end Sys2Proof.Machine
end
